-- ==== Sys2Proof/Word.lean ====
section
/-! DEFINITION. The word types of the PSC (spec/00_scope.md R7, R8): a word is 32 bits, bit 0 the least significant. -/

namespace Sys2Proof

/-- A 32-bit word (R7): a register's contents, a command word, or the encoding `bits(x)` of a binary32 value (R9). -/
abbrev Word := BitVec 32

/-- One byte of the little-endian host aperture (R65). -/
abbrev Byte := BitVec 8

/-- `w32(n)` (R8): the word `n mod 2^32`. -/
abbrev w32 (n : Nat) : Word := BitVec.ofNat 32 n

end Sys2Proof
end

