-- ==== Sys2Proof/Syntax.lean ====
section
/-! DEFINITION. The commands of PSC-CMD version 1 (spec/30_encoding.md R93, R95): one constructor for each row of the opcode
table. `v` and `ch` are the 4-bit fields V and CH, read as integers 0..15 (R90); ARG0 and ARG1 are no part of a command word,
they are captured with it (R92). -/

namespace Sys2Proof

/-- A command. -/
inductive Instr where
  /-- NOP (R210). -/
  | nop
  /-- PREPARE (R212): ARG0 the sample rate, ARG1 the block size. -/
  | prepare
  /-- SET_TRANSPO (R214): ARG0 the semitones. -/
  | setTranspo (v : Fin 16)
  /-- SET_WINDOW (R215): ARG0 the window in ms. -/
  | setWindow
  /-- PROCESS (R220). -/
  | process
  /-- OSC_INIT (R153). -/
  | oscInit (v ch : Fin 16)
  /-- OSC_SET_FREQ (R155): ARG0 the frequency in Hz. -/
  | oscSetFreq (v ch : Fin 16)
  /-- OSC_SET_TYPE (R158): ARG0 the mode. -/
  | oscSetType (v ch : Fin 16)
  /-- OSC_SET_DEBUG (R160): ARG0 the flag. -/
  | oscSetDebug (v ch : Fin 16)
  /-- OSC_NEXT (R162). -/
  | oscNext (v ch : Fin 16)
  /-- RB_CONFIGURE (R181): ARG0 the capacity, ARG1 the block size. -/
  | rbConfigure
  /-- RB_INIT (R182). -/
  | rbInit
  /-- RB_WRITE (R184). -/
  | rbWrite
  /-- RB_READ (R189): ARG0 the sample index, ARG1 the delay. -/
  | rbRead (ch : Fin 16)
  /-- CVT_S2N (R132): ARG0 the seconds, ARG1 the sample rate. -/
  | cvtS2n
  /-- CVT_T2F (R133): ARG0 the semitones, ARG1 the window in ms. -/
  | cvtT2f
deriving DecidableEq, Repr

namespace Instr

/-- The voice index a command uses, if it uses one (R93). -/
def voice? : Instr → Option Nat
  | .setTranspo v => some v
  | .oscInit v _ => some v
  | .oscSetFreq v _ => some v
  | .oscSetType v _ => some v
  | .oscSetDebug v _ => some v
  | .oscNext v _ => some v
  | .nop => none
  | .prepare => none
  | .setWindow => none
  | .process => none
  | .rbConfigure => none
  | .rbInit => none
  | .rbWrite => none
  | .rbRead _ => none
  | .cvtS2n => none
  | .cvtT2f => none

/-- The channel index a command uses, if it uses one (R93). -/
def channel? : Instr → Option Nat
  | .oscInit _ ch => some ch
  | .oscSetFreq _ ch => some ch
  | .oscSetType _ ch => some ch
  | .oscSetDebug _ ch => some ch
  | .oscNext _ ch => some ch
  | .rbRead ch => some ch
  | .nop => none
  | .prepare => none
  | .setTranspo _ => none
  | .setWindow => none
  | .process => none
  | .rbConfigure => none
  | .rbInit => none
  | .rbWrite => none
  | .cvtS2n => none
  | .cvtT2f => none

end Instr

end Sys2Proof
end

