-- ==== Sys2Proof/Decode.lean ====
section
/-! DEFINITION. Decoding a command word (spec/30_encoding.md R90 to R96) and, after it, encoding one. The order of the checks is
that of spec/60_exceptions.md R251: the OP first, then the reserved and unused fields. Index ranges depend on the instance and
are checked when the command executes. -/

namespace Sys2Proof

/-- Why a command word is illegal whatever the instance (R96): checks (1) and (2) of R251. -/
inductive DecodeError where
  /-- The OP is not assigned (error code 1). -/
  | illegalOpcode
  /-- RSV, or a field the command does not use, is not 0 (error code 2). -/
  | reservedField
  /-- Fewer than four bytes: no command word. -/
  | tooShort
deriving DecidableEq, Repr

/-- OP, bits 7:0 (R90). -/
def opField (w : Word) : Nat := w.toNat % 256

/-- V, bits 11:8, zero-extended (R90, R94). -/
def vField (w : Word) : Fin 16 := Fin.ofNat 16 (w.toNat / 256)

/-- CH, bits 15:12, zero-extended (R90, R94). -/
def chField (w : Word) : Fin 16 := Fin.ofNat 16 (w.toNat / 4096)

/-- RSV, bits 31:16 (R90). -/
def rsvField (w : Word) : Nat := w.toNat / 65536

/-- The command a word selects, by OP alone (R95). -/
def select (w : Word) : Option Instr :=
  match opField w with
  | 0x00 => some .nop
  | 0x01 => some .prepare
  | 0x02 => some (.setTranspo (vField w))
  | 0x03 => some .setWindow
  | 0x04 => some .process
  | 0x10 => some (.oscInit (vField w) (chField w))
  | 0x11 => some (.oscSetFreq (vField w) (chField w))
  | 0x12 => some (.oscSetType (vField w) (chField w))
  | 0x13 => some (.oscSetDebug (vField w) (chField w))
  | 0x14 => some (.oscNext (vField w) (chField w))
  | 0x20 => some .rbConfigure
  | 0x21 => some .rbInit
  | 0x22 => some .rbWrite
  | 0x23 => some (.rbRead (chField w))
  | 0x30 => some .cvtS2n
  | 0x31 => some .cvtT2f
  | _ => none

/-- RSV and every field the selected command does not use are 0 (R93): check (2) of R251. -/
def unusedClear (i : Instr) (w : Word) : Bool :=
  rsvField w == 0 && (i.voice?.isSome || vField w == 0) && (i.channel?.isSome || chField w == 0)

/-- Decode a command word: the first failing check decides (R96, R251). -/
def decode (w : Word) : Except DecodeError Instr :=
  match select w with
  | none => .error .illegalOpcode
  | some i => if unusedClear i w then .ok i else .error .reservedField

/-- The word four bytes make, the first at the lowest address: little-endian (R65). -/
def wordOfBytes (b0 b1 b2 b3 : Byte) : Word :=
  w32 (b0.toNat + 256 * b1.toNat + 65536 * b2.toNat + 16777216 * b3.toNat)

/-- Byte `k` of a word (R65): bits 8k+7 down to 8k. -/
def byteOfWord (w : Word) (k : Nat) : Byte := BitVec.ofNat 8 (w.toNat / 2 ^ (8 * k))

/-- Decode the first command word of a list of bytes and give the rest; there is one length, 32 bits (R90). -/
def decodeBytes : List Byte → Except DecodeError (Instr × List Byte)
  | b0 :: b1 :: b2 :: b3 :: rest =>
    match decode (wordOfBytes b0 b1 b2 b3) with
    | .ok i => .ok (i, rest)
    | .error e => .error e
  | _ => .error .tooShort

/-- The word with the given OP, V and CH fields and RSV = 0 (R90). -/
def fieldsWord (op : Nat) (v ch : Nat) : Word := w32 (op + 256 * v + 4096 * ch)

/-- The command word of a command (R95). -/
def encode : Instr → Word
  | .nop => fieldsWord 0x00 0 0
  | .prepare => fieldsWord 0x01 0 0
  | .setTranspo v => fieldsWord 0x02 v 0
  | .setWindow => fieldsWord 0x03 0 0
  | .process => fieldsWord 0x04 0 0
  | .oscInit v ch => fieldsWord 0x10 v ch
  | .oscSetFreq v ch => fieldsWord 0x11 v ch
  | .oscSetType v ch => fieldsWord 0x12 v ch
  | .oscSetDebug v ch => fieldsWord 0x13 v ch
  | .oscNext v ch => fieldsWord 0x14 v ch
  | .rbConfigure => fieldsWord 0x20 0 0
  | .rbInit => fieldsWord 0x21 0 0
  | .rbWrite => fieldsWord 0x22 0 0
  | .rbRead ch => fieldsWord 0x23 0 ch
  | .cvtS2n => fieldsWord 0x30 0 0
  | .cvtT2f => fieldsWord 0x31 0 0

/-- The four bytes of a command word, lowest address first (R65). -/
def bytesOfWord (w : Word) : List Byte :=
  [byteOfWord w 0, byteOfWord w 1, byteOfWord w 2, byteOfWord w 3]

/-- The command the decoder reads from a table row's bits (every bit above `nbits` is 0). -/
def decodeTableWord (nbits w : Nat) : Option Instr :=
  match decodeBytes (bytesOfWord (w32 (w % 2 ^ nbits))) with
  | .ok (i, _) => some i
  | .error _ => none

end Sys2Proof
end

