-- ==== Sys2Proof/Config.lean ====
section
/-! DEFINITION. What one instance of the PSC fixes (spec/00_scope.md R5) and the values the spec leaves open
(spec/93_implementation_defined.md). The fixed numbers are constants; the numbers and functions that differ between instances
are `Params`; the open values are constants without a body, so that no proof can know them. -/

namespace Sys2Proof

namespace Config

/-- SR_MIN, in Hz (R5). -/
def srMin : Nat := 8000

/-- SR_MAX, in Hz (R5). -/
def srMax : Nat := 192000

/-- BLOCK_MAX, samples per channel (R5); also the channel stride of the I/O buffer window, in cells (R62). -/
def blockMax : Nat := 2048

/-- CAP_MAX, ring cells per channel (R5): SR_MAX. -/
def capMax : Nat := 192000

/-- WIN_MIN_MS = 5.0 (R5). -/
def winMin : Word := 0x40A00000#32

/-- WIN_MAX_MS = 300.0 (R5). -/
def winMax : Word := 0x43960000#32

/-- TR_MIN = -12.0 (R5). -/
def trMin : Word := 0xC1400000#32

/-- TR_MAX = 12.0 (R5). -/
def trMax : Word := 0x41400000#32

/-- OUT_GAIN (R5, R222): -6 dB as a binary32. -/
def outGain : Word := 0x3F004DCE#32

/-- The constant of the ID register (R2, R22), ASCII "PSC1". -/
def ident : Word := 0x50534331#32

/-- The highest voice count an instance can have (R5): the register map has this many voice slots (R22). -/
def voiceSlots : Nat := 4

/-- The highest channel count an instance can have (R5): the register map has this many channel slots (R22). -/
def channelSlots : Nat := 8

/-- The size of the host aperture in bytes (R60, R66). -/
def apertureSize : Nat := 0x20000

/-- The first offset of the I/O buffer window (R22, R78). -/
def ioWindow : Nat := 0x10000

/-- FREE VALUE (spec/93 U4, U5, U6; log 8): the n-th unspecified word a host read returns. -/
opaque freeWord : Nat → Word

/-- FREE VALUE (spec/93 U7; log 2): SinPi of an instance other than the reference, before `sinPi` imposes S1 to S4. -/
opaque sinPiFree : Word → Word

/-- FREE VALUE (spec/93 U8; log 2): Exp2 of an instance other than the reference on finite values, as a monotone map of
order keys (property X3 of R126), before `exp2` imposes X1, X2 and X4. -/
opaque exp2Free : ℕ →o ℕ

/-- FREE VALUE (spec/93 U8; log 2): the sign of a zero result of such an Exp2, of which R126 says nothing. -/
opaque exp2FreeZeroSign : Word → Bool

/-- FREE VALUE (spec/93 U8; log 2): Exp2 of an instance other than the reference on an infinity, of which R126 says nothing. -/
opaque exp2FreeAtInf : Word → Word

end Config

/-- Which configuration function, SinPi or Exp2, an instance takes (R5, R125, R126; spec/93 U7, U8). -/
inductive FnChoice where
  /-- The reference instance: correctly rounded. -/
  | reference
  /-- Any other instance: only the properties S1 to S5 and X1 to X5 hold. -/
  | other
deriving DecidableEq, Repr

/-- The parameters of an instance (R5), each within its range; the defaults are the reference instance. -/
structure Params where
  /-- NCH, the number of audio channels. -/
  nch : Nat := 2
  /-- NVOICE, the number of voices. -/
  nvoice : Nat := 3
  /-- QDEPTH, the depth of the command FIFO. -/
  qdepth : Nat := 4
  /-- The function SinPi. -/
  sinFn : FnChoice := .reference
  /-- The function Exp2. -/
  expFn : FnChoice := .reference
  /-- R5: NCH is in 1..8. -/
  nch_range : 1 ≤ nch ∧ nch ≤ 8 := by decide
  /-- R5: NVOICE is in 1..4. -/
  nvoice_range : 1 ≤ nvoice ∧ nvoice ≤ 4 := by decide
  /-- R5: QDEPTH is in 1..16. -/
  qdepth_range : 1 ≤ qdepth ∧ qdepth ≤ 16 := by decide
deriving DecidableEq, Repr

end Sys2Proof
end

