-- ==== Sys2Proof/Machine/State.lean ====
section
/-! DEFINITION. The state of the block (spec/10_state.md), all of it plain data, and its reset value (spec/70_reset_and_hazards.md
R280). INVENTORY.md, "State", lists each field with its rule. -/

namespace Sys2Proof.Machine

/-- The cells of one channel of the ring store or of the I/O buffer (R46, R48): each cell is undefined or holds a binary32 word.
Cells below `filled` that are not listed hold +0.0; cells from `filled` on that are not listed are undefined (log 12). -/
structure Memory where
  /-- The length of the longest prefix of defined cells. -/
  filled : Nat
  /-- The cells that differ from what an unlisted cell reads as: index and word, indices strictly rising. -/
  cells : List (Nat × Word)
deriving DecidableEq, Repr

/-- Every cell undefined: a channel right after reset (R46, R48). -/
def Memory.undefined : Memory := { filled := 0, cells := [] }

/-- The parameters of one voice (R32). -/
structure Voice where
  /-- TRANSPO[v], binary32 semitones. -/
  transpo : Word := 0x00000000#32
  /-- FREQ[v], binary32 Hz. -/
  freq : Word := 0x41A00000#32
deriving DecidableEq, Repr

/-- The state of one oscillator (R40, R41). -/
structure Osc where
  /-- PHASE[v][ch], binary32 in [0, 1). -/
  phase : Word := 0x00000000#32
  /-- OFREQ[v][ch], binary32 Hz. -/
  freq : Word := 0x41A00000#32
  /-- TYPE[v][ch]; 0 is RAMP. -/
  type : BitVec 2 := 0#2
  /-- DEBUG[v][ch]. -/
  debug : Bool := false
deriving DecidableEq, Repr

/-- A command with the operands captured when it was enqueued (R26, R92). -/
structure Entry where
  /-- The command word. -/
  word : Word
  /-- The captured ARG0. -/
  a0 : Word
  /-- The captured ARG1. -/
  a1 : Word
deriving DecidableEq, Repr

/-- One host bus access, its address an offset from BASE (R60, R66). -/
inductive Access where
  /-- A read of `size` bytes. -/
  | read (addr size : Nat)
  /-- A write of `size` bytes; a legal one has size 4 and carries the word `data`. -/
  | write (addr size : Nat) (data : Word)
deriving DecidableEq, Repr

/-- What happens next, from outside the block or inside it (R12, R70, R71, R281). -/
inductive Event where
  /-- A host agent makes an access. -/
  | access (a : Access)
  /-- The command executor makes its next move: a start or a completion. -/
  | turn
  /-- The platform drives RST to a level; true is asserted. -/
  | drive (level : Bool)
deriving DecidableEq, Repr

/-- The block's answer to a host access (R66): the word read (0 for a write) and whether the response signals an error. -/
structure Response where
  /-- The word a read returns. -/
  data : Word
  /-- The bus response signals an error to the master. -/
  err : Bool
deriving DecidableEq, Repr

/-- The state of the block. -/
structure State where
  /-- The instance (R5); constant (log 1). -/
  params : Params
  /-- The write-1-to-clear bits of STATUS, at their places (R23). -/
  sticky : Word
  /-- PREPARED (R33), STATUS bit 3. -/
  prepared : Bool
  /-- ERRINFO (R25). -/
  errinfo : Word
  /-- IRQEN (R22, R260). -/
  irqen : Word
  /-- ARG0 (R20). -/
  arg0 : Word
  /-- ARG1 (R20). -/
  arg1 : Word
  /-- RESULT (R20). -/
  result : Word
  /-- BLKCNT (R34, R266). -/
  blkcnt : Word
  /-- SR (R30). -/
  sr : Word
  /-- BLKSZ (R45). -/
  blksz : Word
  /-- CAP (R45). -/
  cap : Word
  /-- WPTR (R45). -/
  wptr : Word
  /-- WIN_MS (R31), binary32. -/
  winMs : Word
  /-- WIN_SAMP (R31). -/
  winSamp : Word
  /-- TRANSPO and FREQ of each voice slot (R32). -/
  voices : Vector Voice 4
  /-- The oscillators (R40); that of (v, ch) stands at 8·v + ch, as in the register map (R22). -/
  oscs : Vector Osc 32
  /-- The command FIFO, oldest first (R26). -/
  fifo : List Entry
  /-- The in-flight slot (R26). -/
  inflight : Option Entry
  /-- The ring store, a channel each (R46). -/
  ring : Vector Memory 8
  /-- The I/O buffer, a channel each (R48). -/
  io : Vector Memory 8
  /-- The level of RST (R281). -/
  rst : Bool
  /-- What happens next, first first (log 4); the model's own. -/
  inputs : List Event
  /-- The answer to the last host access (log 9); the model's own. -/
  resp : Option Response
  /-- How many free values have been drawn (log 8); the model's own. -/
  freeCount : Nat
deriving DecidableEq, Repr

/-- Why the machine stops. The spec asks for a fault only where a command reads a cell nothing has written since reset. -/
inductive Fault where
  /-- RB_READ or PROCESS reads ring cell `i` of channel `ch`, undefined (R61, spec/93 U3). Safe: nothing is claimed past it. -/
  | undefinedRingCell (ch i : Nat)
  /-- RB_WRITE or PROCESS reads I/O cell `n` of channel `ch`, undefined (R63, spec/93 U4). Safe: nothing is claimed past it. -/
  | undefinedIoCell (ch n : Nat)
deriving DecidableEq, Repr

/-- Why an instruction has no meaning in the model. -/
inductive Refusal where
  /-- Raised by an arm of `exec` for an instruction without a meaning; no arm raises it now. Safe. -/
  | notModelled (mnemonic : String)
deriving DecidableEq, Repr

namespace State

/-- The reset state (R280) of the instance `p`. -/
def resetOf (p : Params) : State where
  params := p
  sticky := 0#32
  prepared := false
  errinfo := 0#32
  irqen := 0#32
  arg0 := 0#32
  arg1 := 0#32
  result := 0#32
  blkcnt := 0#32
  sr := 0#32
  blksz := 0#32
  cap := 0#32
  wptr := 0#32
  winMs := 0x42480000#32
  winSamp := 0#32
  voices := Vector.replicate 4 {}
  oscs := Vector.replicate 32 {}
  fifo := []
  inflight := none
  ring := Vector.replicate 8 Memory.undefined
  io := Vector.replicate 8 Memory.undefined
  rst := false
  inputs := []
  resp := none
  freeCount := 0

/-- The reference instance right after reset (R5, R280). -/
def reset : State := resetOf {}

end State

end Sys2Proof.Machine
end

