-- ==== Sys2Proof/Machine/Operands.lean ====
section
/-! DEFINITION. The operands of the command that executes (spec/30_encoding.md R92 to R94). A binary32 operand is the captured word
itself (no conversion, R94). -/

namespace Sys2Proof.Machine

namespace State

/-- The captured `a0` (R94): that of the in-flight entry. With an empty slot, which `step` never executes from, ARG0 (log 6). -/
def operand0 (s : State) : Word :=
  match s.inflight with
  | some e => e.a0
  | none => s.arg0

/-- The captured `a1` (R94); ARG1 with an empty slot (log 6). -/
def operand1 (s : State) : Word :=
  match s.inflight with
  | some e => e.a1
  | none => s.arg1

end State

/-- `u32(a)` (R8, R94). -/
def u32 (a : Word) : Nat := a.toNat

/-- `i32(a)` (R8, R94): two's complement. -/
def i32 (a : Word) : Int := if a.toNat < 2 ^ 31 then (a.toNat : Int) else (a.toNat : Int) - 2 ^ 32

/-- The command of the in-flight slot, selected by OP alone (R95; log 7). -/
def State.inflightCommand (s : State) : Option Instr :=
  match s.inflight with
  | some e => select e.word
  | none => none

end Sys2Proof.Machine
end

