-- ==== Sys2Proof/Machine/Flags.lean ====
section
/-! DEFINITION. STATUS, ERRINFO, the error codes and the interrupt line (spec/10_state.md R23 to R25, R50; spec/60_exceptions.md R250 to
R260). -/

namespace Sys2Proof.Machine

/-- The error codes (R250). -/
inductive ErrCode where
  /-- Code 1: the OP is not assigned. -/
  | illegalOpcode
  /-- Code 2: RSV or an unused field is not 0. -/
  | reservedField
  /-- Code 3: a used V or CH is out of range. -/
  | indexRange
  /-- Code 4: PREPARED = 0 or CAP = 0. -/
  | notReady
  /-- Code 5: an operand outside its legal set. -/
  | badArgument
  /-- Code 6: a command issued to a full FIFO. -/
  | queueOverflow
  /-- Code 7: a ring read out of range. -/
  | readRange
  /-- Code 8: an I/O buffer access while PROCESS or RB_WRITE is in flight. -/
  | ioConflict
  /-- Code 9: a host access of a wrong size or alignment. -/
  | busFormat
deriving DecidableEq, Repr

/-- The number of an error code (R250). -/
def errNumber : ErrCode → Nat
  | .illegalOpcode => 1
  | .reservedField => 2
  | .indexRange => 3
  | .notReady => 4
  | .badArgument => 5
  | .queueOverflow => 6
  | .readRange => 7
  | .ioConflict => 8
  | .busFormat => 9

/-- The word with only bit `i` set. -/
def bitMask (i : Nat) : Word := w32 (2 ^ i)

/-- STATUS.DONE (R23). -/
def doneBit : Word := bitMask 4

/-- STATUS.CMDDONE (R23). -/
def cmdDoneBit : Word := bitMask 5

/-- STATUS.W_CLAMP (R23). -/
def clampBit : Word := bitMask 14

/-- The STATUS bit of an error code (R23, R250). -/
def errBit : ErrCode → Word
  | .illegalOpcode => bitMask 8
  | .reservedField => bitMask 8
  | .indexRange => bitMask 8
  | .notReady => bitMask 9
  | .badArgument => bitMask 10
  | .queueOverflow => bitMask 11
  | .readRange => bitMask 12
  | .ioConflict => bitMask 13
  | .busFormat => bitMask 13

/-- Bits 4, 5 and 8..14: the W1C bits of STATUS (R24) and the bits IRQEN keeps (R22, R67). -/
def w1cMask : Word := 0x00007F30#32

/-- What ERRINFO records beside the code (R25): the OP, V and CH fields. -/
structure ErrSource where
  /-- The OP field, or 0xFF for a bus access. -/
  op : Nat
  /-- The V field. -/
  v : Nat
  /-- The CH field. -/
  ch : Nat
deriving DecidableEq, Repr

/-- The fields of a command word (R25, R250). -/
def sourceOf (w : Word) : ErrSource := { op := opField w, v := vField w, ch := chField w }

/-- A bus access: OP = 0xFF, V = CH = 0 (R25, R250). -/
def busSource : ErrSource := { op := 0xFF, v := 0, ch := 0 }

/-- The ERRINFO word of an error (R25): CODE 7:0, OP 15:8, V 19:16, CH 23:20. -/
def errWord (c : ErrCode) (src : ErrSource) : Word :=
  w32 (errNumber c + 2 ^ 8 * src.op + 2 ^ 16 * src.v + 2 ^ 20 * src.ch)

/-- ERRINFO.CODE (R25), bits 7:0. -/
def errCodeOf (e : Word) : Nat := e.toNat % 256

namespace State

/-- Set sticky STATUS bits (R23). -/
def setSticky (m : Word) (s : State) : State := { s with sticky := s.sticky ||| m }

/-- Record an error (R250, R253, R254, R255): its STATUS bit is set, and ERRINFO captures it if ERRINFO.CODE = 0 (R25). -/
def recordError (c : ErrCode) (src : ErrSource) (s : State) : State :=
  { s with
    sticky := s.sticky ||| errBit c
    errinfo := if errCodeOf s.errinfo = 0 then errWord c src else s.errinfo }

/-- STATUS.BUSY (R23): a command is in flight. -/
def busy (s : State) : Bool := s.inflight.isSome

/-- STATUS.PENDING (R23): QCOUNT > 0. -/
def pending (s : State) : Bool := !s.fifo.isEmpty

/-- STATUS.QFULL (R23): QCOUNT = QDEPTH. -/
def qfull (s : State) : Bool := s.fifo.length == s.params.qdepth

/-- The word a read of STATUS returns (R23). -/
def statusWord (s : State) : Word :=
  w32 (s.busy.toNat + 2 * s.pending.toNat + 4 * s.qfull.toNat + 8 * s.prepared.toNat) ||| (s.sticky &&& w1cMask)

/-- The level of the interrupt output (R50, R260). -/
def irq (s : State) : Bool := (s.statusWord &&& s.irqen &&& w1cMask) != 0#32

/-- The word a read of HWCFG returns (R27). -/
def hwcfg (s : State) : Word :=
  w32 (s.params.nch + 2 ^ 4 * s.params.nvoice + 2 ^ 8 * s.params.qdepth + 2 ^ 16 * Config.blockMax)

/-- The W1C effect of a host write to STATUS (R24). -/
def clearSticky (w : Word) (s : State) : State := { s with sticky := s.sticky &&& ~~~(w &&& w1cMask) }

/-- A host write to ERRINFO (R25). -/
def clearErrinfo (s : State) : State := { s with errinfo := 0#32 }

/-- A host write to IRQEN: only bits 4, 5 and 8..14 are kept (R22, R67). -/
def setIrqen (w : Word) (s : State) : State := { s with irqen := w &&& w1cMask }

end State

end Sys2Proof.Machine
end

