-- ==== Sys2Proof/Machine/Binary32.lean ====
section
/-! DEFINITION. Binary32 numbers and the primitives of spec/40_utilities.md R120 to R124 and R127. Every finite binary32 value is an
integer number of units of 2^-149, the least positive subnormal, so each operation is exact integer arithmetic followed by one
rounding. -/

namespace Sys2Proof.Machine

/-- The canonical NaN (R121). -/
def f32NaN : Word := 0x7FC00000#32

/-- The encoding of +∞. -/
def f32Inf : Word := 0x7F800000#32

/-- 1.0 -/
def f32One : Word := 0x3F800000#32

/-- 0.5 -/
def f32Half : Word := 0x3F000000#32

/-- The sign bit (R9): true is negative. -/
def fsign (w : Word) : Bool := decide (2 ^ 31 ≤ w.toNat)

/-- The encoding without its sign bit. -/
def fmag (w : Word) : Nat := w.toNat % 2 ^ 31

/-- A NaN: all exponent bits 1 and a fraction that is not 0. -/
def isNaN (w : Word) : Bool := decide (0x7F800000 < fmag w)

/-- An infinity. -/
def isInf (w : Word) : Bool := fmag w == 0x7F800000

/-- Neither an infinity nor a NaN. -/
def isFinite (w : Word) : Bool := decide (fmag w < 0x7F800000)

/-- Either zero. -/
def isZero (w : Word) : Bool := fmag w == 0

/-- The magnitude of a finite value, in units of 2^-149, from its encoding without the sign (R9). On the encoding of ∞ it is 2^128
in the same units, above every finite value. -/
def magUnits (m : Nat) : Nat :=
  if m < 2 ^ 23 then m else (2 ^ 23 + m % 2 ^ 23) * 2 ^ (m / 2 ^ 23 - 1)

/-- `real(x)` in units of 2^-149 (R9); an infinity counts as ±2^128. -/
def units (w : Word) : Int :=
  if fsign w then -(magUnits (fmag w) : Int) else (magUnits (fmag w) : Int)

/-- The encoding with the sign `neg` and the magnitude bits `m`. -/
def fpack (neg : Bool) (m : Nat) : Word := w32 (if neg then 2 ^ 31 + m else m)

/-- The integer nearest to n / d, ties to even. -/
def nearestEven (n d : Nat) : Nat :=
  let q := n / d
  let r := n % d
  if d < 2 * r || (2 * r == d && q % 2 == 1) then q + 1 else q

/-- `rne32` (R120) of the non-negative number (n / d)·2^-149, as magnitude bits: round to 24 significant bits (fewer below the normal
range), ties to even; beyond the largest finite value, ∞. -/
def rneMag (n d : Nat) : Nat :=
  let shift := (n / d).log2 + 1 - 24
  min (shift * 2 ^ 23 + nearestEven n (d * 2 ^ shift)) 0x7F800000

/-- `rne32` (R120) of (n / d)·2^-149 with a sign; a zero keeps the sign given. -/
def rne32 (neg : Bool) (n d : Nat) : Word := fpack neg (rneMag n d)

/-- `-x`, the sign bit inverted. -/
def fnegate (a : Word) : Word := a ^^^ 0x80000000#32

/-- IEEE addition (R120, R121). -/
def fadd (a b : Word) : Word :=
  if isNaN a || isNaN b then f32NaN
  else if isInf a then (if isInf b && fsign a != fsign b then f32NaN else a)
  else if isInf b then b
  else
    let s := units a + units b
    if s = 0 then fpack (fsign a && fsign b) 0 else rne32 (decide (s < 0)) s.natAbs 1

/-- IEEE subtraction (R120, R121). -/
def fsub (a b : Word) : Word := fadd a (fnegate b)

/-- IEEE multiplication (R120, R121). -/
def fmul (a b : Word) : Word :=
  let neg := fsign a != fsign b
  if isNaN a || isNaN b then f32NaN
  else if isInf a || isInf b then (if isZero a || isZero b then f32NaN else fpack neg 0x7F800000)
  else rne32 neg (magUnits (fmag a) * magUnits (fmag b)) (2 ^ 149)

/-- IEEE division (R120, R121). -/
def fdiv (a b : Word) : Word :=
  let neg := fsign a != fsign b
  if isNaN a || isNaN b then f32NaN
  else if isInf a then (if isInf b then f32NaN else fpack neg 0x7F800000)
  else if isInf b then fpack neg 0
  else if isZero b then (if isZero a then f32NaN else fpack neg 0x7F800000)
  else rne32 neg (magUnits (fmag a) * 2 ^ 149) (magUnits (fmag b))

/-- `Round(x)` (R122): the integer nearest to a finite x, ties away from zero. -/
def roundAway (x : Word) : Int :=
  let n : Nat := (2 * magUnits (fmag x) + 2 ^ 149) / 2 ^ 150
  if fsign x then -(n : Int) else (n : Int)

/-- `mod1(x)` (R123): the fractional part, rounded, with a rounded 1.0 taken to +0.0. -/
def mod1 (x : Word) : Word :=
  if isFinite x then
    let y := rne32 false (units x % 2 ^ 149).toNat 1
    if y = f32One then 0#32 else y
  else f32NaN

/-- `clamp(x, lo, hi)` (R124), for x that is not NaN. -/
def clamp (x lo hi : Word) : Word :=
  if units x < units lo then lo else if units hi < units x then hi else x

/-- `i2f(n)` (R127) for a natural number n; exact for n ≤ 2^24. -/
def i2f (n : Nat) : Word := rne32 false (n * 2 ^ 149) 1

/-- `split(d)` (R127), for finite d ≥ 0: the integer part and the exact fraction. -/
def splitInt (d : Word) : Nat := magUnits (fmag d) / 2 ^ 149

/-- The fraction φ of `split(d)` (R127). -/
def splitFrac (d : Word) : Word := rne32 false (magUnits (fmag d) % 2 ^ 149) 1

end Sys2Proof.Machine
end

