-- ==== Sys2Proof/Machine/Functions.lean ====
section
/-! DEFINITION. The configuration functions SinPi and Exp2 (spec/40_utilities.md R125, R126) and the utility functions S2N and T2F
(R130, R131). The reference instance's functions are evaluated in fixed point with 192 fraction bits and rounded once (log 3); those
of another instance are uninterpreted (log 2). Both pass through the same shape, which makes the properties the spec names hold. -/

namespace Sys2Proof.Machine

/-- 1.0 in fixed point: 192 fraction bits. -/
def fxOne : Nat := 2 ^ 192

/-- π, rounded down, in fixed point. -/
def fxPi : Nat := 0x3243f6a8885a308d313198a2e03707344a4093822299f31d0

/-- ln 2, rounded down, in fixed point. -/
def fxLn2 : Nat := 0xb17217f7d1cf79abc9e3b39803f2f6af40f343267298b62d

/-- The series 1 - y²/(2j(2j+1))·(1 - y²/((2j+2)(2j+3))·(…)), n factors of it; with j = 1 it is sin(y)/y. `y2` is y² in fixed point. -/
def sinSeries : Nat → Nat → Nat → Nat
  | 0, _, _ => fxOne
  | n + 1, j, y2 => fxOne - y2 * sinSeries n (j + 1) y2 / fxOne / (2 * j * (2 * j + 1))

/-- The series 1 + y/j·(1 + y/(j+1)·(…)), n factors of it; with j = 1 it is e^y. `y` is in fixed point. -/
def expSeries : Nat → Nat → Nat → Nat
  | 0, _, _ => fxOne
  | n + 1, j, y => fxOne + y * expSeries n (j + 1) y / fxOne / j

/-- `rne32(sin(π·x))` for the reference instance (R125), NaN for a non-finite x. The argument is reduced exactly: `u` units of the
half period, mirrored at its middle to `v`. -/
def sinPiReference (x : Word) : Word :=
  if isFinite x then
    let t := (units x % 2 ^ 150).toNat
    let u := t % 2 ^ 149
    let v := min u (2 ^ 149 - u)
    if v = 0 then 0#32
    else
      let y2 := (fxPi * v) ^ 2 / 2 ^ (298 + 192)
      rne32 (decide (2 ^ 149 ≤ t)) (v * fxPi * sinSeries 32 1 y2) (fxOne ^ 2)
  else f32NaN

/-- `rne32(2^q)` for the reference instance (R126): the exponent is split exactly into its floor `e` and a fraction. -/
def exp2Reference (q : Word) : Word :=
  if isNaN q then f32NaN
  else if isInf q then (if fsign q then 0#32 else f32Inf)
  else
    let e := units q / 2 ^ 149
    if 128 ≤ e then f32Inf
    else if e < -200 then 0#32
    else
      let y := (units q % 2 ^ 149).toNat * fxLn2 / 2 ^ 149
      rne32 false (expSeries 50 1 y * 2 ^ (e + 200).toNat) (fxOne * 2 ^ 51)

/-- `n` moved to the nearest number in [lo, hi]. -/
def boundNat (lo hi n : Nat) : Nat := max lo (min hi n)

/-- SinPi of an instance (R125). S1, S2 and S4 are given; S3 bounds the result for 0 < p < 1; nothing else is imposed. -/
def sinPi (f : FnChoice) (p : Word) : Word :=
  if p = 0#32 ∨ p = f32One then 0#32
  else if p = f32Half then f32One
  else
    let r := match f with
      | .reference => sinPiReference p
      | .other => Config.sinPiFree p
    if p.toNat < 0x3F800000 then w32 (boundNat 1 0x3F800000 r.toNat) else r

/-- The place of a value that is not NaN in the order of the numbers; the two zeros share one place. -/
def orderKey (w : Word) : Nat := if fsign w then 2 ^ 31 - fmag w else 2 ^ 31 + fmag w

/-- The value at a place of that order; `negZero` is the sign of a zero. -/
def ofOrderKey (negZero : Bool) (k : Nat) : Word :=
  if k < 2 ^ 31 then fpack true (2 ^ 31 - k) else if k = 2 ^ 31 then fpack negZero 0 else fpack false (k - 2 ^ 31)

/-- The bounds that X1 to X4 (R126) put on the result of Exp2 at a finite q other than 0, 1 and -1, as order keys. -/
def exp2Bounds (q : Word) : Nat × Nat :=
  let k := orderKey q
  if k < orderKey 0xBF800000#32 then (orderKey 0xFF800000#32, orderKey f32Half)
  else if k < orderKey 0x00000000#32 then (orderKey f32Half, orderKey f32One)
  else if k < orderKey f32One then (orderKey f32One, orderKey 0x40000000#32)
  else (orderKey 0x40000000#32, orderKey f32Inf)

/-- Exp2 of an instance (R126). X1 and X2 are given; X3 and X2 bound the result elsewhere, X4 with it. -/
def exp2 (f : FnChoice) (q : Word) : Word :=
  if isNaN q then f32NaN
  else if isZero q then f32One
  else if q = f32One then 0x40000000#32
  else if q = 0xBF800000#32 then f32Half
  else if isInf q then
    match f with
    | .reference => exp2Reference q
    | .other => Config.exp2FreeAtInf q
  else
    let r := match f with
      | .reference => (orderKey (exp2Reference q), false)
      | .other => (Config.exp2Free (orderKey q), Config.exp2FreeZeroSign q)
    ofOrderKey r.2 (boundNat (exp2Bounds q).1 (exp2Bounds q).2 r.1)

/-- `S2N(sec, sr)` (R130): the sample count, for a product that is finite and not negative. -/
def secondsToSamples (sec : Word) (sr : Nat) : Nat := (roundAway (fmul sec (i2f sr))).toNat

/-- `T2F(s, m)` (R131). -/
def transpoToFreq (f : FnChoice) (s m : Word) : Word :=
  fdiv (fmul (exp2 f (fdiv s 0x41400000#32)) 0x447A0000#32) m

/-- A window size in ms as a sample count: `S2N(fdiv(m, 1000), sr)` (R212, R215). -/
def windowSamples (m : Word) (sr : Nat) : Nat := secondsToSamples (fdiv m 0x447A0000#32) sr

/-- The capacity of one second: `S2N(1.0, sr)` (R212). -/
def capacityFor (sr : Nat) : Nat := secondsToSamples f32One sr

/-- `PhaseB(pA)` (R217). -/
def phaseB (pA : Word) : Word := mod1 (fadd pA f32Half)

end Sys2Proof.Machine
end

