-- ==== Sys2Proof/Machine/Ops.lean ====
section
/-! DEFINITION. The named operations over memory, registers, the FIFO, the oscillators and the ring, and what the spec has in place of
exceptions: raising an error, which ends a command without effect (spec/60_exceptions.md R253), and completing one (R72). -/

namespace Sys2Proof.Machine

/-! ## Memory: the cells of one channel -/

namespace Memory

/-- What an unlisted cell reads as: +0.0 below `filled`, undefined from there on. -/
def unlisted (m : Memory) (i : Nat) : Option Word := if i < m.filled then some 0#32 else none

/-- The word listed for cell `i`. -/
def lookup (i : Nat) : List (Nat × Word) → Option Word
  | [] => none
  | (j, x) :: r => if i = j then some x else lookup i r

/-- Read cell `i`; none if it is undefined (R61, R63). -/
def read (m : Memory) (i : Nat) : Option Word := (lookup i m.cells).or (m.unlisted i)

/-- List the word `x` for cell `i`, indices rising. -/
def insertCell (i : Nat) (x : Word) : List (Nat × Word) → List (Nat × Word)
  | [] => [(i, x)]
  | (j, y) :: r => if i < j then (i, x) :: (j, y) :: r else if i = j then (i, x) :: r else (j, y) :: insertCell i x r

/-- Unlist cell `i`. -/
def eraseCell (i : Nat) (cs : List (Nat × Word)) : List (Nat × Word) := cs.filter fun c => c.1 != i

/-- Put a cell in front of a memory's listed cells. -/
def consCell (c : Nat × Word) (m : Memory) : Memory := { m with cells := c :: m.cells }

/-- The canonical memory with the first `f` cells defined and the cells listed: a cell listed at the end of the prefix lengthens it, and
is then listed only if it is not +0.0. -/
def absorb : Nat → List (Nat × Word) → Memory
  | f, [] => { filled := f, cells := [] }
  | f, (i, x) :: r =>
    if i < f then consCell (i, x) (absorb f r)
    else if i = f then (if x = 0#32 then absorb (f + 1) r else consCell (i, x) (absorb (f + 1) r))
    else { filled := f, cells := (i, x) :: r }

/-- Write cell `i` (R61, R62): the cell becomes defined. -/
def write (m : Memory) (i : Nat) (x : Word) : Memory :=
  if i < m.filled then
    { m with cells := if x = 0#32 then eraseCell i m.cells else insertCell i x m.cells }
  else absorb m.filled (insertCell i x m.cells)

/-- Write +0.0 to cells 0..n-1 (R182, R212). -/
def fillZero (m : Memory) (n : Nat) : Memory :=
  let above := m.cells.filter fun c => decide (n ≤ c.1)
  if n ≤ m.filled then { m with cells := above } else absorb n above

/-- The canonical form: listed indices strictly rising, none at the end of the prefix, and below it none that holds what an unlisted
cell reads as. Equal contents are then equal data. -/
abbrev wf (m : Memory) : Prop :=
  m.cells.Pairwise (fun a b => a.1 < b.1) ∧ ∀ c ∈ m.cells, c.1 ≠ m.filled ∧ (c.1 < m.filled → c.2 ≠ 0#32)

/-- Every defined cell is below `n`. -/
abbrev below (m : Memory) (n : Nat) : Prop := m.filled ≤ n ∧ ∀ c ∈ m.cells, c.1 < n

end Memory

/-! ## Loops -/

/-- `for i in 0..n-1` (R11), ascending. -/
def loop {σ : Type} (n : Nat) (body : Nat → σ → σ) (s : σ) : σ :=
  match n with
  | 0 => s
  | k + 1 => body k (loop k body s)

/-- `for i in 0..n-1` (R11), ascending, stopping at a fault. -/
def loopE {σ : Type} (n : Nat) (body : Nat → σ → Except Fault σ) (s : σ) : Except Fault σ :=
  match n with
  | 0 => .ok s
  | k + 1 =>
    match loopE k body s with
    | .error f => .error f
    | .ok t => body k t

/-- Go on with a computation's result, or stop at its fault. -/
def andThen {α β : Type} (x : Except Fault α) (k : α → Except Fault β) : Except Fault β :=
  match x with
  | .error f => .error f
  | .ok a => k a

namespace State

/-! ## Registers and arrays -/

/-- The channel `ch` of the ring store (R46). -/
def ringMem (s : State) (ch : Nat) : Memory := s.ring.getD ch Memory.undefined

/-- The channel `ch` of the I/O buffer (R48). -/
def ioMem (s : State) (ch : Nat) : Memory := s.io.getD ch Memory.undefined

/-- `RingWrite(ch, i, x)` (R61). -/
def ringWrite (ch i : Nat) (x : Word) (s : State) : State :=
  { s with ring := s.ring.setIfInBounds ch ((s.ringMem ch).write i x) }

/-- `RingWrite(ch, i, +0.0)` for i in 0..n-1 (R182, R212). -/
def ringFillZero (ch n : Nat) (s : State) : State :=
  { s with ring := s.ring.setIfInBounds ch ((s.ringMem ch).fillZero n) }

/-- `IoWrite(ch, n, x)` (R62). -/
def ioWrite (ch n : Nat) (x : Word) (s : State) : State :=
  { s with io := s.io.setIfInBounds ch ((s.ioMem ch).write n x) }

/-- `RingRead(ch, i)` (R61): a fault if the cell is undefined (spec/93 U3; log 11). -/
def ringRead (s : State) (ch i : Nat) : Except Fault Word :=
  match (s.ringMem ch).read i with
  | some x => .ok x
  | none => .error (.undefinedRingCell ch i)

/-- `IoRead(ch, n)` (R62) by a command: a fault if the cell is undefined (R63, spec/93 U4; log 11). -/
def ioRead (s : State) (ch n : Nat) : Except Fault Word :=
  match (s.ioMem ch).read n with
  | some x => .ok x
  | none => .error (.undefinedIoCell ch n)

/-- The place of oscillator (v, ch), as in the register map (R22). -/
def oscIndex (v ch : Nat) : Nat := 8 * v + ch

/-- The oscillator (v, ch) (R40). -/
def osc (s : State) (v ch : Nat) : Osc := s.oscs.getD (oscIndex v ch) {}

/-- Write the oscillator (v, ch). -/
def setOsc (v ch : Nat) (o : Osc) (s : State) : State := { s with oscs := s.oscs.setIfInBounds (oscIndex v ch) o }

/-- The voice v (R32). -/
def voice (s : State) (v : Nat) : Voice := s.voices.getD v {}

/-- Write the voice v. -/
def setVoice (v : Nat) (x : Voice) (s : State) : State := { s with voices := s.voices.setIfInBounds v x }

/-- Write RESULT (R20). -/
def setResult (x : Word) (s : State) : State := { s with result := x }

/-! ## The FIFO and the end of a command -/

/-- Enqueue an entry at the tail; on a full FIFO it is dropped and error 6 is recorded with its word's fields (R92). -/
def enqueue (e : Entry) (s : State) : State :=
  if s.fifo.length < s.params.qdepth then { s with fifo := s.fifo ++ [e] }
  else s.recordError .queueOverflow (sourceOf e.word)

/-- A command completes (R72): CMDDONE is set and the in-flight slot empties, so that BUSY is 0 (R23). -/
def complete (s : State) : State := { s with sticky := s.sticky ||| cmdDoneBit, inflight := none }

/-- A command aborts (R253): nothing it would have written changes, the error is recorded, the command completes. -/
def abort (c : ErrCode) (src : ErrSource) (s : State) : State := (s.recordError c src).complete

end State

/-- `raise Error(code)` (R10, R253) in the command `i`: the shared operation by which an error is taken. There is no trap to enter and none
to return from (R258, R259). -/
def raise (i : Instr) (c : ErrCode) (s : State) : Host.Outcome State Fault Refusal :=
  .next (s.abort c (sourceOf (encode i)))

/-- A command ends with its effects in `s` (R72). -/
def finish (s : State) : Host.Outcome State Fault Refusal := .next s.complete

/-- A command ends with the effects a computation gives, or the machine stops at its fault. -/
def finishE (x : Except Fault State) : Host.Outcome State Fault Refusal :=
  match x with
  | .ok s => finish s
  | .error f => .fault f

namespace State

/-! ## Voices and oscillators -/

/-- `OFREQ[v][ch] <- f`. -/
def setOscFreq (v : Nat) (f : Word) (ch : Nat) (s : State) : State := s.setOsc v ch { s.osc v ch with freq := f }

/-- `PHASE[v][ch] <- +0.0`. -/
def zeroPhase (v ch : Nat) (s : State) : State := s.setOsc v ch { s.osc v ch with phase := 0#32 }

/-- `VoiceFreqUpdate(v)` (R211). -/
def voiceFreqUpdate (v : Nat) (s : State) : State :=
  let f := transpoToFreq s.params.expFn (s.voice v).transpo s.winMs
  loop s.params.nch (setOscFreq v f) (s.setVoice v { s.voice v with freq := f })

/-- VoiceFreqUpdate(v) for v in 0..NVOICE-1 (R212, R215). -/
def allFreqUpdate (s : State) : State := loop s.params.nvoice voiceFreqUpdate s

/-- The increment `fdiv(OFREQ[v][ch], i2f(SR))` (R151). -/
def oscInc (s : State) (v ch : Nat) : Word := fdiv (s.osc v ch).freq (i2f s.sr.toNat)

/-- The effect of `OscNext(v, ch)` on the phase (R151); the value it returns is the phase before. -/
def oscAdvance (v ch : Nat) (s : State) : State :=
  s.setOsc v ch { s.osc v ch with phase := mod1 (fadd (s.osc v ch).phase (s.oscInc v ch)) }

/-! ## The ring -/

/-- The cell of age `a` (R186): `(WPTR - 1 - a) mod CAP`. -/
def ageCell (s : State) (a : Int) : Nat := (((s.wptr.toNat : Int) - 1 - a) % (s.cap.toNat : Int)).toNat

/-- One cell of RingWriteBlock (R183). -/
def ringWriteCell (ch j : Nat) (s : State) : Except Fault State :=
  andThen (s.ioRead ch j) fun x => .ok (s.ringWrite ch ((s.wptr.toNat + j) % s.cap.toNat) x)

/-- One channel of RingWriteBlock (R183). -/
def ringWriteChannel (ch : Nat) (s : State) : Except Fault State := loopE s.blksz.toNat (ringWriteCell ch) s

/-- `RingWriteBlock()` (R183). -/
def ringWriteBlock (s : State) : Except Fault State :=
  andThen (loopE s.params.nch ringWriteChannel s) fun t =>
    .ok { t with wptr := w32 ((t.wptr.toNat + t.blksz.toNat) % t.cap.toNat) }

/-- The age of the newer tap (R187): `BLKSZ - 1 - n + k`. -/
def newerAge (s : State) (n : Int) (d : Word) : Int := (s.blksz.toNat : Int) - 1 - n + (splitInt d : Int)

/-- The age of the older tap (R187). -/
def olderAge (s : State) (n : Int) (d : Word) : Int := s.newerAge n d + (if isZero (splitFrac d) then 0 else 1)

/-- The read has a position and both its taps are in the ring (R187, R188). -/
def readInRange (s : State) (n : Int) (d : Word) : Bool :=
  isFinite d && decide (0 ≤ units d) && decide (0 ≤ s.newerAge n d) && decide (s.olderAge n d ≤ (s.cap.toNat : Int) - 1)

/-- The value of a read that is in range (R187). -/
def interpolate (s : State) (ch : Nat) (n : Int) (d : Word) : Except Fault Word :=
  andThen (s.ringRead ch (s.ageCell (s.newerAge n d))) fun xNew =>
    if isZero (splitFrac d) then .ok xNew
    else andThen (s.ringRead ch (s.ageCell (s.olderAge n d))) fun xOld =>
      .ok (fadd xNew (fmul (splitFrac d) (fsub xOld xNew)))

/-- `RingReadInterp(ch, n, d)` (R187) in a command whose fields are `src`: out of range it reads nothing, records error 7 and gives +0.0
(R188, R254). -/
def ringReadInterp (src : ErrSource) (ch : Nat) (n : Int) (d : Word) (s : State) : Except Fault (State × Word) :=
  if s.readInRange n d then andThen (s.interpolate ch n d) fun x => .ok (s, x)
  else .ok (s.recordError .readRange src, 0#32)

end State

end Sys2Proof.Machine
end

