-- ==== Sys2Proof/Machine/Bus.lean ====
section
/-! DEFINITION. Host bus accesses (spec/20_memory.md R60 to R79), the register map (spec/10_state.md R22) and the single-write issue forms
(spec/30_encoding.md R97). -/

namespace Sys2Proof.Machine

/-- What stands at an aligned offset of the host aperture (R22, R78). -/
inductive Target where
  /-- ID. -/
  | ident
  /-- STATUS. -/
  | status
  /-- ERRINFO. -/
  | errinfo
  /-- IRQEN. -/
  | irqen
  /-- CMD. -/
  | cmd
  /-- ARG0. -/
  | arg0
  /-- ARG1. -/
  | arg1
  /-- RESULT. -/
  | result
  /-- BLKCNT. -/
  | blkcnt
  /-- SR. -/
  | sr
  /-- BLKSZ. -/
  | blksz
  /-- CAP. -/
  | cap
  /-- WPTR. -/
  | wptr
  /-- WIN_MS. -/
  | winMs
  /-- WIN_SAMP. -/
  | winSamp
  /-- OUTGAIN. -/
  | outGain
  /-- HWCFG. -/
  | hwcfg
  /-- CAPMAX. -/
  | capMax
  /-- QCOUNT. -/
  | qcount
  /-- TRANSPO[v]. -/
  | transpo (v : Nat)
  /-- FREQ[v]. -/
  | freq (v : Nat)
  /-- QTRANSPO[v]. -/
  | qtranspo (v : Nat)
  /-- QWINDOW. -/
  | qwindow
  /-- PHASE[v][ch]. -/
  | phase (v ch : Nat)
  /-- OFREQ[v][ch]. -/
  | ofreq (v ch : Nat)
  /-- OCFG[v][ch]. -/
  | ocfg (v ch : Nat)
  /-- IOBUF[ch][n]. -/
  | iobuf (ch n : Nat)
  /-- A reserved offset. -/
  | reserved
deriving DecidableEq, Repr

/-- The single registers, offsets 0x000 to 0x048 (R22). -/
def singleTarget (off : Nat) : Target :=
  match off with
  | 0x000 => .ident
  | 0x004 => .status
  | 0x008 => .errinfo
  | 0x00C => .irqen
  | 0x010 => .cmd
  | 0x014 => .arg0
  | 0x018 => .arg1
  | 0x01C => .result
  | 0x020 => .blkcnt
  | 0x024 => .sr
  | 0x028 => .blksz
  | 0x02C => .cap
  | 0x030 => .wptr
  | 0x034 => .winMs
  | 0x038 => .winSamp
  | 0x03C => .outGain
  | 0x040 => .hwcfg
  | 0x044 => .capMax
  | 0x048 => .qcount
  | _ => .reserved

/-- The register map (R22): the target of an aligned offset of the aperture. In an indexed file the slot number is the distance from
the file's base, in words. -/
def targetOf (off : Nat) : Target :=
  if off < 0x080 then singleTarget off
  else if off < 0x090 then .transpo ((off - 0x080) / 4)
  else if off < 0x0A0 then .freq ((off - 0x090) / 4)
  else if off < 0x0B0 then .qtranspo ((off - 0x0A0) / 4)
  else if off = 0x0B0 then .qwindow
  else if off < 0x100 then .reserved
  else if off < 0x180 then .phase ((off - 0x100) / 4 / 8) ((off - 0x100) / 4 % 8)
  else if off < 0x200 then .reserved
  else if off < 0x280 then .ofreq ((off - 0x200) / 4 / 8) ((off - 0x200) / 4 % 8)
  else if off < 0x300 then .reserved
  else if off < 0x380 then .ocfg ((off - 0x300) / 4 / 8) ((off - 0x300) / 4 % 8)
  else if off < Config.ioWindow then .reserved
  else .iobuf ((off - Config.ioWindow) / 4 / Config.blockMax) ((off - Config.ioWindow) / 4 % Config.blockMax)

/-- The OCFG word of an oscillator (R41): TYPE in bits 1:0, DEBUG in bit 8. -/
def ocfgWord (o : Osc) : Word := w32 (o.type.toNat + if o.debug then 256 else 0)

namespace State

/-- The word in a voice slot, 0 where the instance has no such voice (R22). -/
def voiceSlot (s : State) (v : Nat) (x : Word) : Word := if v < s.params.nvoice then x else 0#32

/-- The word in an oscillator slot, 0 where the instance has no such oscillator (R22). -/
def oscSlot (s : State) (v ch : Nat) (x : Word) : Word := if v < s.params.nvoice ∧ ch < s.params.nch then x else 0#32

/-- The current value of a register (R22); 0 for a write-only one and at a reserved offset. The I/O buffer is read by `hostRead`. -/
def regValue (s : State) : Target → Word
  | .ident => Config.ident
  | .status => s.statusWord
  | .errinfo => s.errinfo
  | .irqen => s.irqen
  | .cmd => 0#32
  | .arg0 => s.arg0
  | .arg1 => s.arg1
  | .result => s.result
  | .blkcnt => s.blkcnt
  | .sr => s.sr
  | .blksz => s.blksz
  | .cap => s.cap
  | .wptr => s.wptr
  | .winMs => s.winMs
  | .winSamp => s.winSamp
  | .outGain => Config.outGain
  | .hwcfg => s.hwcfg
  | .capMax => w32 Config.capMax
  | .qcount => w32 (s.fifo.length % 32)
  | .transpo v => s.voiceSlot v (s.voice v).transpo
  | .freq v => s.voiceSlot v (s.voice v).freq
  | .qtranspo _ => 0#32
  | .qwindow => 0#32
  | .phase v ch => s.oscSlot v ch (s.osc v ch).phase
  | .ofreq v ch => s.oscSlot v ch (s.osc v ch).freq
  | .ocfg v ch => s.oscSlot v ch (ocfgWord (s.osc v ch))
  | .iobuf _ _ => 0#32
  | .reserved => 0#32

end State

/-- The registers in a command's write set (R72). The I/O buffer cells of PROCESS are R69's. -/
def inWriteSet : Instr → Target → Bool
  | .nop, _ => false
  | .prepare, t =>
    match t with
    | .sr | .blksz | .cap | .wptr | .winSamp | .freq _ | .ofreq _ _ | .phase _ _ | .blkcnt => true
    | _ => false
  | .setTranspo v, t =>
    match t with
    | .transpo u => u == v.val
    | .freq u => u == v.val
    | .ofreq u _ => u == v.val
    | _ => false
  | .setWindow, t =>
    match t with
    | .winMs | .winSamp | .freq _ | .ofreq _ _ => true
    | _ => false
  | .process, t =>
    match t with
    | .wptr | .phase _ _ | .blkcnt => true
    | _ => false
  | .oscInit v ch, t => t == .phase v ch
  | .oscSetFreq v ch, t => t == .ofreq v ch
  | .oscSetType v ch, t => t == .ocfg v ch
  | .oscSetDebug v ch, t => t == .ocfg v ch
  | .oscNext v ch, t => t == .phase v ch || t == .result
  | .rbConfigure, t =>
    match t with
    | .cap | .blksz | .wptr => true
    | _ => false
  | .rbInit, t => t == .wptr
  | .rbWrite, t => t == .wptr
  | .rbRead _, t => t == .result
  | .cvtS2n, t => t == .result
  | .cvtT2f, t => t == .result

/-- The slot exists on the instance (R22); every target that is no slot exists. -/
def slotExists (p : Params) : Target → Bool
  | .transpo v => decide (v < p.nvoice)
  | .freq v => decide (v < p.nvoice)
  | .qtranspo v => decide (v < p.nvoice)
  | .phase v ch => decide (v < p.nvoice) && decide (ch < p.nch)
  | .ofreq v ch => decide (v < p.nvoice) && decide (ch < p.nch)
  | .ocfg v ch => decide (v < p.nvoice) && decide (ch < p.nch)
  | .iobuf ch _ => decide (ch < p.nch)
  | _ => true

namespace State

/-- A read of the register returns an unspecified word now: it is in the write set of the command in flight (R72, spec/93 U6). -/
def unsettled (s : State) (t : Target) : Bool :=
  slotExists s.params t &&
    match s.inflightCommand with
    | some i => inWriteSet i t
    | none => false

/-- The I/O buffer belongs to the command in flight (R69): it is PROCESS or RB_WRITE. -/
def ioBusy (s : State) : Bool :=
  match s.inflightCommand with
  | some .process => true
  | some .rbWrite => true
  | _ => false

/-- The response of the block to an access (log 9). -/
def respond (data : Word) (err : Bool) (s : State) : State := { s with resp := some { data := data, err := err } }

/-- A read that returns an unspecified word (spec/93 U4, U5, U6): a fresh free value (log 8). -/
def respondFree (s : State) : State :=
  { s with resp := some { data := Config.freeWord s.freeCount, err := false }, freeCount := s.freeCount + 1 }

/-- A host read of IOBUF[ch][n] (R62, R63, R69). -/
def readIobuf (ch n : Nat) (s : State) : State :=
  if s.params.nch ≤ ch then s.respond 0#32 false
  else if s.ioBusy then (s.recordError .ioConflict busSource).respondFree
  else
    match (s.ioMem ch).read n with
    | some x => s.respond x false
    | none => s.respondFree

/-- A legal host read (R66, R67, R71, R72). -/
def hostRead (off : Nat) (s : State) : State :=
  match targetOf off with
  | .iobuf ch n => s.readIobuf ch n
  | t => if s.unsettled t then s.respondFree else s.respond (s.regValue t) false

/-- A host write to IOBUF[ch][n] (R62, R67, R69). -/
def writeIobuf (ch n : Nat) (w : Word) (s : State) : State :=
  if s.params.nch ≤ ch then s
  else if s.ioBusy then s.recordError .ioConflict busSource
  else s.ioWrite ch n w

/-- The effect of a legal host write (R67): these and no others. -/
def writeEffect (t : Target) (w : Word) (s : State) : State :=
  match t with
  | .status => s.clearSticky w
  | .errinfo => s.clearErrinfo
  | .irqen => s.setIrqen w
  | .cmd => s.enqueue { word := w, a0 := s.arg0, a1 := s.arg1 }
  | .arg0 => { s with arg0 := w }
  | .arg1 => { s with arg1 := w }
  | .qtranspo v => if v < s.params.nvoice then s.enqueue { word := fieldsWord 0x02 v 0, a0 := w, a1 := 0#32 } else s
  | .qwindow => s.enqueue { word := fieldsWord 0x03 0 0, a0 := w, a1 := 0#32 }
  | .iobuf ch n => s.writeIobuf ch n w
  | .ident => s
  | .result => s
  | .blkcnt => s
  | .sr => s
  | .blksz => s
  | .cap => s
  | .wptr => s
  | .winMs => s
  | .winSamp => s
  | .outGain => s
  | .hwcfg => s
  | .capMax => s
  | .qcount => s
  | .transpo _ => s
  | .freq _ => s
  | .phase _ _ => s
  | .ofreq _ _ => s
  | .ocfg _ _ => s
  | .reserved => s

/-- A legal host write (R66, R67). -/
def hostWrite (off : Nat) (w : Word) (s : State) : State := (s.writeEffect (targetOf off) w).respond 0#32 false

/-- An access of a wrong size or alignment (R66): error 9, a bus error response, 0 if it is a read. -/
def badAccess (s : State) : State := (s.recordError .busFormat busSource).respond 0#32 true

end State

/-- The size and the alignment R66 asks for. -/
def accessFormed (addr size : Nat) : Bool := size == 4 && addr % 4 == 0

/-- A host access (R66). While RST is asserted it has no effect and a read returns 0 (R281). An aligned word access outside the aperture
is the platform's: the block does not answer (log 10). -/
def hostAccess (a : Access) (s : State) : State :=
  if s.rst then s.respond 0#32 false
  else
    match a with
    | .read addr size =>
      if !accessFormed addr size then s.badAccess
      else if Config.apertureSize ≤ addr then { s with resp := none }
      else s.hostRead addr
    | .write addr size w =>
      if !accessFormed addr size then s.badAccess
      else if Config.apertureSize ≤ addr then { s with resp := none }
      else s.hostWrite addr w

/-- The byte at an offset of the I/O buffer window (R62, R65): byte `off mod 4` of its cell; none while the cell is undefined, 0 where
the instance has no such channel. No legal access sees a single byte; this is the layout R65 states. -/
def State.ioByte (s : State) (off : Nat) : Option Byte :=
  match targetOf (off / 4 * 4) with
  | .iobuf ch n =>
    if s.params.nch ≤ ch then some 0#8
    else ((s.ioMem ch).read n).map fun w => byteOfWord w (off % 4)
  | _ => none

end Sys2Proof.Machine
end

