-- ==== Sys2Proof/Machine/Agents.lean ====
section
/-! DEFINITION. What the executor and the platform do beside executing a command: starting one (spec/20_memory.md R72), and driving the
reset input (spec/70_reset_and_hazards.md R281, R282). -/

namespace Sys2Proof.Machine

/-- The error code of a word that does not decode (R250). A command word has all its four bytes, so `tooShort` does not arise. -/
def decodeErrCode : DecodeError → ErrCode
  | .illegalOpcode => .illegalOpcode
  | .reservedField => .reservedField
  | .tooShort => .illegalOpcode

/-- The executor takes the oldest entry of the FIFO (R21, R26, R72); with an empty FIFO it stays idle (R270). -/
def State.startNext (s : State) : State :=
  match s.fifo with
  | [] => s
  | e :: rest => { s with inflight := some e, fifo := rest }

/-- The platform drives RST (R281, R282). Asserting it puts every piece of the block's state at its reset value and keeps it there: what
is in flight or queued is abandoned. The instance, the events to come and the count of free values drawn are not the block's. -/
def driveReset (level : Bool) (s : State) : State :=
  if level then { State.resetOf s.params with rst := true, inputs := s.inputs, freeCount := s.freeCount }
  else { s with rst := false }

end Sys2Proof.Machine
end

