-- ==== Sys2Proof/WellFormed.lean ====
section
/-! DEFINITION. When a command is legal on an instance (spec/30_encoding.md R93, R96): a used V is below NVOICE and a used CH is
below NCH. Every command of the syntax has an encoding; an ill-formed one is decoded and then aborts with error code 3. -/

namespace Sys2Proof

namespace Instr

/-- A used voice index exists on the instance (R93). -/
def voiceLegal (p : Params) (i : Instr) : Bool :=
  match i.voice? with
  | some v => decide (v < p.nvoice)
  | none => true

/-- A used channel index exists on the instance (R93). -/
def channelLegal (p : Params) (i : Instr) : Bool :=
  match i.channel? with
  | some ch => decide (ch < p.nch)
  | none => true

/-- The command is legal on the instance `p` (R93): check (3) of R251 passes. -/
def wellFormed (p : Params) (i : Instr) : Bool :=
  i.voiceLegal p && i.channelLegal p

end Instr

end Sys2Proof
end

