-- ==== Sys2Proof/Machine/RingBuffer.lean ====
section
/-! DEFINITION. The ring-buffer commands (spec/42_ring_buffer.md R181 to R189). -/

namespace Sys2Proof.Machine

/-- RB_CONFIGURE (R181): cells are not changed. -/
def execRbConfigure (s : State) : Host.Outcome State Fault Refusal :=
  let cap := u32 s.operand0
  let blk := u32 s.operand1
  if cap < 1 ∨ Config.capMax < cap then raise .rbConfigure .badArgument s
  else if blk < 1 ∨ Config.blockMax < blk then raise .rbConfigure .badArgument s
  else finish { s with cap := w32 cap, blksz := w32 blk, wptr := 0#32 }

/-- Zero cells 0..n-1 of every channel (R182, R212). -/
def State.ringClear (n : Nat) (s : State) : State := loop s.params.nch (fun ch => State.ringFillZero ch n) s

/-- RB_INIT (R182). -/
def execRbInit (s : State) : Host.Outcome State Fault Refusal :=
  if s.cap.toNat = 0 then raise .rbInit .notReady s
  else finish { s.ringClear s.cap.toNat with wptr := 0#32 }

/-- RB_WRITE (R184). -/
def execRbWrite (s : State) : Host.Outcome State Fault Refusal :=
  if s.cap.toNat = 0 then raise .rbWrite .notReady s
  else finishE s.ringWriteBlock

/-- RB_READ (R189). -/
def execRbRead (ch : Fin 16) (s : State) : Host.Outcome State Fault Refusal :=
  let i := Instr.rbRead ch
  if i.wellFormed s.params then
    if s.cap.toNat = 0 then raise i .notReady s
    else
      finishE (andThen (s.ringReadInterp (sourceOf (encode i)) ch (i32 s.operand0) s.operand1) fun r =>
        .ok (r.1.setResult r.2))
  else raise i .indexRange s

end Sys2Proof.Machine
end

