-- ==== Sys2Proof/Machine/Engine.lean ====
section
/-! DEFINITION. The engine commands (spec/43_engine.md R210 to R222). -/

namespace Sys2Proof.Machine

/-- NOP (R210). -/
def execNop (s : State) : Host.Outcome State Fault Refusal := finish s

/-- `PHASE[v][ch] <- +0.0` for every (v, ch) (R212). -/
def State.zeroPhases (s : State) : State :=
  loop s.params.nvoice (fun v t => loop t.params.nch (State.zeroPhase v) t) s

/-- The effect of a PREPARE that passes its checks (R212). -/
def State.prepareWith (sr blk : Nat) (s : State) : State :=
  let s1 := { s with sr := w32 sr, cap := w32 (capacityFor sr), blksz := w32 blk, wptr := 0#32 }
  let s2 := (s1.ringClear (capacityFor sr)).zeroPhases
  let s3 := { s2 with winSamp := w32 (windowSamples s2.winMs sr) }
  { s3.allFreqUpdate with blkcnt := 0#32, prepared := true }

/-- PREPARE (R212). -/
def execPrepare (s : State) : Host.Outcome State Fault Refusal :=
  let sr := u32 s.operand0
  let blk := u32 s.operand1
  let cap := capacityFor sr
  if sr < Config.srMin ∨ Config.srMax < sr then raise .prepare .badArgument s
  else if blk < 1 ∨ Config.blockMax < blk then raise .prepare .badArgument s
  else if Config.capMax < cap ∨ cap < blk + 2 * windowSamples Config.winMax sr then raise .prepare .badArgument s
  else finish (s.prepareWith sr blk)

/-- STATUS.W_CLAMP is set when clamping changed the operand (R124, R214, R215). -/
def State.noteClamp (x clamped : Word) (s : State) : State := if clamped = x then s else s.setSticky clampBit

/-- SET_TRANSPO (R214). -/
def execSetTranspo (v : Fin 16) (s : State) : Host.Outcome State Fault Refusal :=
  let i := Instr.setTranspo v
  let x := s.operand0
  if i.wellFormed s.params then
    if isNaN x then raise i .badArgument s
    else
      let c := clamp x Config.trMin Config.trMax
      let t := s.noteClamp x c
      finish ((t.setVoice v { t.voice v with transpo := c }).voiceFreqUpdate v)
  else raise i .indexRange s

/-- The window in samples after a SET_WINDOW (R215): recomputed only when PREPARED. -/
def State.newWinSamp (m : Word) (s : State) : Word :=
  if s.prepared then w32 (windowSamples m s.sr.toNat) else s.winSamp

/-- SET_WINDOW (R215). -/
def execSetWindow (s : State) : Host.Outcome State Fault Refusal :=
  let x := s.operand0
  if isNaN x then raise .setWindow .badArgument s
  else
    let c := clamp x Config.winMin Config.winMax
    finish { s.noteClamp x c with winMs := c, winSamp := s.newWinSamp c }.allFreqUpdate

/-- `delay(p)` (R218). -/
def State.readerDelay (s : State) (p : Word) : Word := fmul p (i2f s.winSamp.toNat)

/-- `VoiceTap(v, ch, n)` (R219) in a command whose fields are `src`. -/
def State.voiceTap (src : ErrSource) (v ch n : Nat) (s : State) : Except Fault (State × Word) :=
  let w : Nat := s.winSamp.toNat
  let pA := (s.osc v ch).phase
  let pB := phaseB pA
  let eA := sinPi s.params.sinFn pA
  let eB := sinPi s.params.sinFn pB
  andThen ((s.oscAdvance v ch).ringReadInterp src ch ((n : Int) - w) (s.readerDelay pA)) fun ra =>
    andThen (ra.1.ringReadInterp src ch ((n : Int) - w) (s.readerDelay pB)) fun rb =>
      .ok (rb.1, fadd (fmul ra.2 eA) (fmul rb.2 eB))

/-- One voice's term added to the accumulator (R220, R221). -/
def addVoice (src : ErrSource) (ch n v : Nat) (x : State × Word) : Except Fault (State × Word) :=
  andThen (x.1.voiceTap src v ch n) fun r => .ok (r.1, fadd x.2 r.2)

/-- Output sample n of channel ch, before the gain: the voices in ascending order from +0.0 (R220, R221). -/
def State.outSample (src : ErrSource) (ch n : Nat) (s : State) : Except Fault (State × Word) :=
  loopE s.params.nvoice (addVoice src ch n) (s, 0#32)

/-- Samples 0..B-1 of channel ch, in order (R220). -/
def addSample (src : ErrSource) (ch n : Nat) (x : State × List Word) : Except Fault (State × List Word) :=
  andThen (x.1.outSample src ch n) fun r => .ok (r.1, x.2 ++ [r.2])

/-- The output of channel ch, before the gain (R220). -/
def State.outChannel (src : ErrSource) (ch : Nat) (s : State) : Except Fault (State × List Word) :=
  loopE s.blksz.toNat (addSample src ch) (s, [])

/-- One channel's output added to the scratch storage (R220). -/
def addChannel (src : ErrSource) (ch : Nat) (x : State × List (List Word)) : Except Fault (State × List (List Word)) :=
  andThen (x.1.outChannel src ch) fun r => .ok (r.1, x.2 ++ [r.2])

/-- The outputs of every channel, before the gain (R220). -/
def State.outBlock (src : ErrSource) (s : State) : Except Fault (State × List (List Word)) :=
  loopE s.params.nch (addChannel src) (s, [])

/-- `IoWrite(ch, n, fmul(out[ch][n], OUTGAIN))` for n in 0..B-1 (R220, R222). -/
def State.writeChannel (ch : Nat) (out : List Word) (s : State) : State :=
  loop out.length (fun n t => t.ioWrite ch n (fmul (out.getD n 0#32) Config.outGain)) s

/-- The outputs written to the I/O buffer (R220). -/
def State.writeBlock (out : List (List Word)) (s : State) : State :=
  loop out.length (fun ch t => t.writeChannel ch (out.getD ch [])) s

/-- The effect of a PROCESS that is ready (R220). -/
def State.processBlock (src : ErrSource) (s : State) : Except Fault State :=
  andThen s.ringWriteBlock fun t =>
    andThen (t.outBlock src) fun r =>
      let u := r.1.writeBlock r.2
      .ok (State.setSticky doneBit { u with blkcnt := w32 (u.blkcnt.toNat + 1) })

/-- PROCESS (R220). -/
def execProcess (s : State) : Host.Outcome State Fault Refusal :=
  if s.prepared then finishE (s.processBlock (sourceOf (encode .process))) else raise .process .notReady s

end Sys2Proof.Machine
end

