-- ==== Sys2Proof/Machine/Oscillator.lean ====
section
/-! DEFINITION. The oscillator commands (spec/41_oscillator.md R153 to R162). -/

namespace Sys2Proof.Machine

/-- OSC_INIT (R153). -/
def execOscInit (v ch : Fin 16) (s : State) : Host.Outcome State Fault Refusal :=
  let i := Instr.oscInit v ch
  if i.wellFormed s.params then finish (s.zeroPhase v ch) else raise i .indexRange s

/-- OSC_SET_FREQ (R155). -/
def execOscSetFreq (v ch : Fin 16) (s : State) : Host.Outcome State Fault Refusal :=
  let i := Instr.oscSetFreq v ch
  if i.wellFormed s.params then
    if isFinite s.operand0 then finish (s.setOscFreq v s.operand0 ch) else raise i .badArgument s
  else raise i .indexRange s

/-- OSC_SET_TYPE (R158): only RAMP is legal. -/
def execOscSetType (v ch : Fin 16) (s : State) : Host.Outcome State Fault Refusal :=
  let i := Instr.oscSetType v ch
  if i.wellFormed s.params then
    if u32 s.operand0 = 0 then finish (s.setOsc v ch { s.osc v ch with type := 0#2 }) else raise i .badArgument s
  else raise i .indexRange s

/-- OSC_SET_DEBUG (R160). -/
def execOscSetDebug (v ch : Fin 16) (s : State) : Host.Outcome State Fault Refusal :=
  let i := Instr.oscSetDebug v ch
  if i.wellFormed s.params then
    if u32 s.operand0 ≤ 1 then finish (s.setOsc v ch { s.osc v ch with debug := u32 s.operand0 == 1 })
    else raise i .badArgument s
  else raise i .indexRange s

/-- OSC_NEXT (R162): RESULT is the phase before the step. -/
def execOscNext (v ch : Fin 16) (s : State) : Host.Outcome State Fault Refusal :=
  let i := Instr.oscNext v ch
  if i.wellFormed s.params then
    if s.prepared then finish ((s.oscAdvance v ch).setResult (s.osc v ch).phase) else raise i .notReady s
  else raise i .indexRange s

end Sys2Proof.Machine
end

