-- ==== Sys2Proof/Machine/Utility.lean ====
section
/-! DEFINITION. The utility commands (spec/40_utilities.md R132, R133). -/

namespace Sys2Proof.Machine

/-- CVT_S2N (R132). -/
def execCvtS2n (s : State) : Host.Outcome State Fault Refusal :=
  let sec := s.operand0
  let sr := u32 s.operand1
  if !isFinite sec || decide (units sec < 0) then raise .cvtS2n .badArgument s
  else if sr = 0 ∨ 2 ^ 24 < sr then raise .cvtS2n .badArgument s
  else if isInf (fmul sec (i2f sr)) then raise .cvtS2n .badArgument s
  else if 2 ^ 32 - 1 < secondsToSamples sec sr then raise .cvtS2n .badArgument s
  else finish (s.setResult (w32 (secondsToSamples sec sr)))

/-- CVT_T2F (R133): no check, no clamp. -/
def execCvtT2f (s : State) : Host.Outcome State Fault Refusal :=
  finish (s.setResult (transpoToFreq s.params.expFn s.operand0 s.operand1))

end Sys2Proof.Machine
end

