-- ==== Sys2Proof/Machine/Dispatch.lean ====
section
/-! DEFINITION. The command in flight executes and completes: one arm per command (spec/30_encoding.md R93). -/

namespace Sys2Proof.Machine

/-- Execute a command whose word passed checks (1) and (2) of R251. -/
def exec (i : Instr) (s : State) : Host.Outcome State Fault Refusal :=
  match i with
  | .nop => Sys2Proof.Machine.execNop s
  | .prepare => Sys2Proof.Machine.execPrepare s
  | .setTranspo v => Sys2Proof.Machine.execSetTranspo v s
  | .setWindow => Sys2Proof.Machine.execSetWindow s
  | .process => Sys2Proof.Machine.execProcess s
  | .oscInit v ch => Sys2Proof.Machine.execOscInit v ch s
  | .oscSetFreq v ch => Sys2Proof.Machine.execOscSetFreq v ch s
  | .oscSetType v ch => Sys2Proof.Machine.execOscSetType v ch s
  | .oscSetDebug v ch => Sys2Proof.Machine.execOscSetDebug v ch s
  | .oscNext v ch => Sys2Proof.Machine.execOscNext v ch s
  | .rbConfigure => Sys2Proof.Machine.execRbConfigure s
  | .rbInit => Sys2Proof.Machine.execRbInit s
  | .rbWrite => Sys2Proof.Machine.execRbWrite s
  | .rbRead ch => Sys2Proof.Machine.execRbRead ch s
  | .cvtS2n => Sys2Proof.Machine.execCvtS2n s
  | .cvtT2f => Sys2Proof.Machine.execCvtT2f s

end Sys2Proof.Machine
end

