-- ==== Sys2Proof/Machine/Executor.lean ====
section
/-! DEFINITION. The moves of the executor, and what each event does (spec/20_memory.md R70 to R72). -/

namespace Sys2Proof.Machine

/-- The in-flight entry completes: its word is decoded and the command executes, or an illegal word aborts (R96, R251, R253). -/
def completeEntry (e : Entry) (s : State) : Host.Outcome State Fault Refusal :=
  match decode e.word with
  | .ok i => exec i s
  | .error d => .next (s.abort (decodeErrCode d) (sourceOf e.word))

/-- A move of the executor (R12, R72): it completes the command in flight; with none in flight it takes the oldest FIFO entry; with
neither, or while RST is asserted, it does nothing (R270, R281). -/
def executorMove (s : State) : Host.Outcome State Fault Refusal :=
  if s.rst then .next s
  else
    match s.inflight with
    | some e => completeEntry e s
    | none => .next s.startNext

/-- What an event does (R12, R71, R281). -/
def takeEvent (e : Event) (s : State) : Host.Outcome State Fault Refusal :=
  match e with
  | .turn => executorMove s
  | .access a => .next (hostAccess a s)
  | .drive level => .next (driveReset level s)

/-- The word `w` in flight, its operands captured from ARG0 and ARG1, RST released, the executor's turn next (log 5). -/
def State.placeInFlight (w : Word) (s : State) : State :=
  { s with
    inflight := some { word := w, a0 := s.arg0, a1 := s.arg1 }
    rst := false
    inputs := .turn :: s.inputs }

end Sys2Proof.Machine
end

