-- ==== Sys2Proof/Machine/Step.lean ====
section
/-! DEFINITION. One step of the block: the next event of State.inputs, or, when none is given, a move of the executor (spec/20_memory.md R70
to R72; log 4). -/

namespace Sys2Proof.Machine

/-- One step. -/
def step (s : State) : Host.Outcome State Fault Refusal :=
  match s.inputs with
  | [] => executorMove s
  | e :: rest => takeEvent e { s with inputs := rest }

/-- `s` with the command word `w` where the executor executes next (log 5). -/
def State.withFetchWord (s : State) (nbits w : Nat) : State := s.placeInFlight (w32 (w % 2 ^ nbits))

end Sys2Proof.Machine
end

