-- ==== Sys2Proof/Safety.lean ====
section
/-! DEFINITION. The terms claims are made in: the invariants the spec states of the block's registers and memories, the part of the state
that belongs to the host's side, and what a safe step is. -/

namespace Sys2Proof.Machine

/-- `lo ≤ real(x) ≤ hi` for an x that is not NaN. -/
abbrev inRange (lo hi x : Word) : Prop := isNaN x = false ∧ units lo ≤ units x ∧ units x ≤ units hi

/-- A binary32 value in [0, 1), its zero +0.0 (R42). -/
abbrev unitPhase (x : Word) : Prop := x.toNat < 0x3F800000

namespace State

/-- Every channel of both memories is in canonical form and lies below the physical sizes (R46, R48). -/
abbrev memoryLegal (s : State) : Prop :=
  ∀ ch, ch < 8 →
    (s.ringMem ch).wf ∧ (s.ringMem ch).below Config.capMax ∧ (s.ioMem ch).wf ∧ (s.ioMem ch).below Config.blockMax

/-- The FIFO holds at most QDEPTH entries (R26); the reserved bits of STATUS, IRQEN and ERRINFO are 0 (R22, R23, R25). -/
abbrev controlLegal (s : State) : Prop :=
  s.fifo.length ≤ s.params.qdepth ∧ s.sticky &&& ~~~w1cMask = 0#32 ∧ s.irqen &&& ~~~w1cMask = 0#32 ∧
    s.errinfo.toNat < 2 ^ 24

/-- CAP and BLKSZ are within the physical sizes, WPTR < CAP whenever CAP ≥ 1 (R45), and there is a capacity once PREPARED (R212). -/
abbrev cursorLegal (s : State) : Prop :=
  s.cap.toNat ≤ Config.capMax ∧ s.blksz.toNat ≤ Config.blockMax ∧ (1 ≤ s.cap.toNat → s.wptr.toNat < s.cap.toNat) ∧
    (s.prepared = true → 1 ≤ s.cap.toNat)

/-- SR is a legal rate once PREPARED and 0 before (R30, R33). -/
abbrev rateLegal (s : State) : Prop :=
  (s.prepared = true → Config.srMin ≤ s.sr.toNat ∧ s.sr.toNat ≤ Config.srMax) ∧ (s.prepared = false → s.sr = 0#32)

/-- WIN_MS and every TRANSPO are within their bounds (R31, R32). -/
abbrev parametersLegal (s : State) : Prop :=
  inRange Config.winMin Config.winMax s.winMs ∧
    ∀ v, v < s.params.nvoice → inRange Config.trMin Config.trMax (s.voice v).transpo

/-- FREQ[v] = T2F(TRANSPO[v], WIN_MS) (R32). -/
abbrev freqDerived (s : State) : Prop :=
  ∀ v, v < s.params.nvoice → (s.voice v).freq = transpoToFreq s.params.expFn (s.voice v).transpo s.winMs

/-- Every phase is in [0, 1), and every oscillator frequency is finite (R42, R151). -/
abbrev oscillatorsLegal (s : State) : Prop :=
  ∀ v ch, v < 4 → ch < 8 → unitPhase (s.osc v ch).phase ∧ isFinite (s.osc v ch).freq = true

/-- WIN_SAMP is the window at the sample rate once PREPARED (R31). -/
abbrev windowDerived (s : State) : Prop :=
  s.prepared = true → s.winSamp = w32 (windowSamples s.winMs s.sr.toNat)

/-- The numeric invariant of the engine: what a phase in [0, 1) rests on. -/
abbrev engineLegal (s : State) : Prop := s.rateLegal ∧ s.parametersLegal ∧ s.oscillatorsLegal

/-- The capacity invariant of R191. -/
abbrev capacityEnough (s : State) : Prop := s.blksz.toNat + 2 * s.winSamp.toNat ≤ s.cap.toNat

/-- Every I/O cell a block takes is defined (R63, R283). -/
abbrev blockDefined (s : State) : Prop :=
  ∀ ch, ch < s.params.nch → ∀ n, n < s.blksz.toNat → ((s.ioMem ch).read n).isSome = true

/-- Every ring cell in use is defined (R46). -/
abbrev ringDefined (s : State) : Prop :=
  ∀ ch, ch < s.params.nch → ∀ i, i < s.cap.toNat → ((s.ringMem ch).read i).isSome = true

/-- The state with the fields a command never writes taken from `s` (R67, R72): two states agree on this side exactly when one is the
other's. It holds the instance, the host's registers, the FIFO, RST and the model's own fields. -/
abbrev hostSideSame (s t : State) : Prop :=
  t.params = s.params ∧ t.irqen = s.irqen ∧ t.arg0 = s.arg0 ∧ t.arg1 = s.arg1 ∧ t.fifo = s.fifo ∧ t.rst = s.rst ∧
    t.inputs = s.inputs ∧ t.resp = s.resp ∧ t.freeCount = s.freeCount

end State

/-- The slots of the voice file at `base` (R22). -/
def voiceFile (p : Params) (base : Nat) : List Nat := (List.range p.nvoice).map fun v => base + 4 * v

/-- The slots of voice `v` in the oscillator file at `base` (R22). -/
def oscRow (p : Params) (base v : Nat) : List Nat :=
  if v < p.nvoice then (List.range p.nch).map fun ch => base + 4 * (8 * v + ch) else []

/-- The slots of the oscillator file at `base` (R22). -/
def oscFile (p : Params) (base : Nat) : List Nat := (List.range p.nvoice).flatMap (oscRow p base)

/-- The slot of the oscillator (v, ch) in the file at `base`, if the instance has it (R22). -/
def oscCell (p : Params) (base v ch : Nat) : List Nat :=
  if v < p.nvoice ∧ ch < p.nch then [base + 4 * (8 * v + ch)] else []

/-- The offsets of the registers in a command's write set: the table of R72, row by row, as the register map places them. -/
def writeSetOffsets (p : Params) : Instr → List Nat
  | .nop => []
  | .prepare =>
    [0x024, 0x028, 0x02C, 0x030, 0x038] ++ voiceFile p 0x090 ++ oscFile p 0x200 ++ oscFile p 0x100 ++ [0x020]
  | .setTranspo v => (if v.val < p.nvoice then [0x080 + 4 * v.val, 0x090 + 4 * v.val] else []) ++ oscRow p 0x200 v
  | .setWindow => [0x034, 0x038] ++ voiceFile p 0x090 ++ oscFile p 0x200
  | .process => [0x030] ++ oscFile p 0x100 ++ [0x020]
  | .oscInit v ch => oscCell p 0x100 v ch
  | .oscSetFreq v ch => oscCell p 0x200 v ch
  | .oscSetType v ch => oscCell p 0x300 v ch
  | .oscSetDebug v ch => oscCell p 0x300 v ch
  | .oscNext v ch => oscCell p 0x100 v ch ++ [0x01C]
  | .rbConfigure => [0x02C, 0x028, 0x030]
  | .rbInit => [0x030]
  | .rbWrite => [0x030]
  | .rbRead _ => [0x01C]
  | .cvtS2n => [0x01C]
  | .cvtT2f => [0x01C]

/-- A safe step: the machine goes on. -/
abbrev stepSafe (s : State) : Prop := ∃ t, step s = .next t

/-! ## What a command leaves, written out -/

/-- `s` after a command that does nothing but complete: CMDDONE (bit 5) is set, the in-flight slot is empty (R23, R72). -/
def State.afterCommand (s : State) : State := { s with sticky := s.sticky ||| 0x00000020#32, inflight := none }

/-- `s` after a command that aborts (R253): the STATUS bit `bit` and CMDDONE are set, ERRINFO captures the code and the fields if its
CODE is 0 (R25), the in-flight slot is empty. -/
def State.afterError (s : State) (code bit op v ch : Nat) : State :=
  { s with
    sticky := s.sticky ||| w32 (2 ^ bit) ||| 0x00000020#32
    errinfo := if s.errinfo.toNat % 256 = 0 then w32 (code + 256 * op + 65536 * v + 1048576 * ch) else s.errinfo
    inflight := none }

/-- The command `i` executed `k` times in a row, if it goes on each time. -/
def repeatCommand (i : Instr) : Nat → State → Option State
  | 0, s => some s
  | k + 1, s =>
    match repeatCommand i k s with
    | none => none
    | some t =>
      match exec i t with
      | .next u => some u
      | .fault _ => none
      | .refused _ => none

/-! ## The engine's formulas, written without the executor's loops -/

/-- A phase after `n` oscillator steps of increment `inc` (R151). -/
def phaseAfter (inc phase : Word) : Nat → Word
  | 0 => phase
  | n + 1 => mod1 (fadd (phaseAfter inc phase n) inc)

namespace State

/-- The phase of oscillator (v, ch) after `n` more steps (R151). -/
def phaseAt (s : State) (v ch n : Nat) : Word :=
  phaseAfter (fdiv (s.osc v ch).freq (i2f s.sr.toNat)) (s.osc v ch).phase n

/-- The age of the newer tap of a read at sample index `n` and delay `d` (R186, R187). -/
def tapAge (s : State) (n : Int) (d : Word) : Int := s.blksz.toNat - 1 - n + splitInt d

/-- The ring cell of age `a`, as a word; 0 stands for an undefined cell, which a claim rules out (R186). -/
def agedSample (s : State) (ch : Nat) (a : Int) : Word :=
  ((s.ringMem ch).read (((s.wptr.toNat : Int) - 1 - a) % s.cap.toNat).toNat).getD 0#32

/-- A read has a position, and its taps are no newer than the newest sample and no older than CAP - 1 (R187, R188). -/
abbrev tapsInRange (s : State) (n : Int) (d : Word) : Prop :=
  isFinite d = true ∧ 0 ≤ units d ∧ 0 ≤ s.tapAge n d ∧
    s.tapAge n d + (if isZero (splitFrac d) then 0 else 1) ≤ s.cap.toNat - 1

/-- The value of RingReadInterp(ch, n, d) (R187, R188). -/
def readAt (s : State) (ch : Nat) (n : Int) (d : Word) : Word :=
  if s.tapsInRange n d then
    let xNew := s.agedSample ch (s.tapAge n d)
    if isZero (splitFrac d) then xNew
    else fadd xNew (fmul (splitFrac d) (fsub (s.agedSample ch (s.tapAge n d + 1)) xNew))
  else 0#32

/-- The delay at which voice `v`'s Reader A reads channel `ch` for output sample `n` (R218). -/
def delayA (s : State) (v ch n : Nat) : Word := fmul (s.phaseAt v ch n) (i2f s.winSamp.toNat)

/-- The delay at which its Reader B reads (R217, R218). -/
def delayB (s : State) (v ch n : Nat) : Word := fmul (mod1 (fadd (s.phaseAt v ch n) 0x3F000000#32)) (i2f s.winSamp.toNat)

/-- One voice's contribution to output sample `n` of channel `ch` (R217, R218, R219), the ring as `s` has it. -/
def tapSum (s : State) (v ch n : Nat) : Word :=
  let pA := s.phaseAt v ch n
  let pB := mod1 (fadd pA 0x3F000000#32)
  let at_ : Int := (n : Int) - s.winSamp.toNat
  fadd (fmul (s.readAt ch at_ (s.delayA v ch n)) (sinPi s.params.sinFn pA))
    (fmul (s.readAt ch at_ (s.delayB v ch n)) (sinPi s.params.sinFn pB))

/-- The first `k` voices of output sample `n` of channel `ch`, summed in ascending order from +0.0 (R221). -/
def mixAt (s : State) (ch n : Nat) : Nat → Word
  | 0 => 0#32
  | k + 1 => fadd (s.mixAt ch n k) (s.tapSum k ch n)

/-- Some read of a PROCESS is out of range (R188, R219); writing the block moves no phase and no age. -/
abbrev processReadsOutOfRange (s : State) : Prop :=
  ∃ ch, ch < s.params.nch ∧ ∃ v, v < s.params.nvoice ∧ ∃ n, n < s.blksz.toNat ∧
    (¬ s.tapsInRange ((n : Int) - s.winSamp.toNat) (s.delayA v ch n) ∨
      ¬ s.tapsInRange ((n : Int) - s.winSamp.toNat) (s.delayB v ch n))

/-- A read that is in range reaches an undefined ring cell: its newer tap, or its older one where it interpolates (R187). -/
abbrev readReachesUndefined (s : State) (ch : Nat) (n : Int) (d : Word) : Prop :=
  s.tapsInRange n d ∧ ((s.ringMem ch).read (s.ageCell (s.tapAge n d)) = none ∨
    isZero (splitFrac d) = false ∧ (s.ringMem ch).read (s.ageCell (s.tapAge n d + 1)) = none)

/-- Some read of a PROCESS reaches an undefined ring cell, the ring as `s` has it (R219, spec/93 U3). -/
abbrev processReadsUndefined (s : State) : Prop :=
  ∃ ch, ch < s.params.nch ∧ ∃ v, v < s.params.nvoice ∧ ∃ n, n < s.blksz.toNat ∧
    (s.readReachesUndefined ch ((n : Int) - s.winSamp.toNat) (s.delayA v ch n) ∨
      s.readReachesUndefined ch ((n : Int) - s.winSamp.toNat) (s.delayB v ch n))

/-- The executor's turn is next, and `rest` is what is left of the events after it: a turn is scheduled, or no event is (log 4). -/
abbrev executorTurn (s : State) (rest : List Event) : Prop := s.inputs = [] ∧ rest = [] ∨ s.inputs = .turn :: rest

/-- The next step completes an RB_CONFIGURE (0x00000020) whose operands are legal (R181). -/
abbrev configures (s : State) : Prop :=
  s.rst = false ∧ (s.inputs = [] ∨ s.inputs.head? = some .turn) ∧ s.inflight.map Entry.word = some 0x00000020#32 ∧
    1 ≤ s.operand0.toNat ∧ s.operand0.toNat ≤ Config.capMax ∧ 1 ≤ s.operand1.toNat ∧ s.operand1.toNat ≤ Config.blockMax

/-- The state holds what R223 rests on after a PREPARE: the engine's invariants, PREPARED, WIN_SAMP derived, CAP = SR, BLKSZ legal. -/
abbrev preparedRange (s : State) : Prop :=
  s.engineLegal ∧ s.windowDerived ∧ s.prepared = true ∧ s.cap = s.sr ∧ 1 ≤ s.blksz.toNat ∧ s.blksz.toNat ≤ Config.blockMax

end State

end Sys2Proof.Machine
end

