-- ==== Sys2Proof/Certificates/Slice0/Obligations.lean ====
section
/-! DEFINITION. The statements for the provers. Each names the rules of the spec it formalises; terms are those of Sys2Proof/Safety.lean. -/

open Sys2Proof Sys2Proof.Machine

/-! ## Reset -/

/-- R280: every piece of state after reset, on every instance; the executor is then idle and does nothing. -/
def Obligations.ResetLeavesListedValues : Prop :=
  ∀ p : Params,
    let s := State.resetOf p
    (s.statusWord = 0#32 ∧ s.prepared = false ∧ s.errinfo = 0#32 ∧ s.irqen = 0#32) ∧
    (s.arg0 = 0#32 ∧ s.arg1 = 0#32 ∧ s.result = 0#32 ∧ s.blkcnt = 0#32) ∧
    (s.sr = 0#32 ∧ s.blksz = 0#32 ∧ s.cap = 0#32 ∧ s.wptr = 0#32) ∧
    (s.winMs = 0x42480000#32 ∧ s.winSamp = 0#32) ∧
    (s.regValue .ident = 0x50534331#32 ∧ s.regValue .outGain = 0x3F004DCE#32 ∧ s.regValue .capMax = 192000#32 ∧
      State.reset.regValue .hwcfg = 0x08000432#32) ∧
    (s.regValue .qcount = 0#32 ∧ s.fifo = [] ∧ s.inflight = none) ∧
    (∀ v, v < p.nvoice → s.voice v = { transpo := 0x00000000#32, freq := 0x41A00000#32 }) ∧
    (∀ v ch, v < p.nvoice → ch < p.nch →
      s.osc v ch = { phase := 0x00000000#32, freq := 0x41A00000#32, type := 0#2, debug := false }) ∧
    (∀ ch i, ch < p.nch → (s.ringMem ch).read i = none ∧ (s.ioMem ch).read i = none) ∧
    s.irq = false ∧ step s = .next s

/-- R281, R282: asserting RST in any state gives the reset state, abandoning what is in flight and queued; while it is asserted host
accesses change nothing and read 0, and the executor does nothing; releasing it changes nothing else. The fields that are the model's own
follow logs 4, 8, 9 and 17. -/
def Obligations.ResetInputAbandonsAndHolds : Prop :=
  ∀ (s : State) (rest : List Event),
    (s.inputs = .drive true :: rest →
      step s = .next { State.resetOf s.params with rst := true, inputs := rest, freeCount := s.freeCount }) ∧
    (s.rst = true → ∀ a, s.inputs = .access a :: rest →
      step s = .next { s with inputs := rest, resp := some { data := 0#32, err := false } }) ∧
    (s.rst = true → s.inputs = .turn :: rest → step s = .next { s with inputs := rest }) ∧
    (s.inputs = .drive false :: rest → step s = .next { s with inputs := rest, rst := false })

/-! ## Encoding -/

/-- R90, R93, R95: every command decodes from its encoding, and a word that decodes to a command is that command's only encoding. -/
def Obligations.DecodeEncodeInverse : Prop :=
  (∀ i : Instr, decode (encode i) = .ok i) ∧ (∀ (w : Word) (i : Instr), decode w = .ok i → encode i = w)

/-- R95: words written out from the patterns decode to the commands they stand for. The word for OSC_NEXT v2, ch1 is the one R90 and R95
give, not the one spec/95 prints (log 20). -/
def Obligations.SampleWordsDecode : Prop :=
  decode 0x00000000#32 = .ok .nop ∧ decode 0x00000001#32 = .ok .prepare ∧ decode 0x00000202#32 = .ok (.setTranspo 2) ∧
  decode 0x00000003#32 = .ok .setWindow ∧ decode 0x00000004#32 = .ok .process ∧
  decode 0x00001110#32 = .ok (.oscInit 1 1) ∧ decode 0x00001011#32 = .ok (.oscSetFreq 0 1) ∧
  decode 0x00000112#32 = .ok (.oscSetType 1 0) ∧ decode 0x0000F113#32 = .ok (.oscSetDebug 1 15) ∧
  decode 0x00001214#32 = .ok (.oscNext 2 1) ∧ decode 0x00000020#32 = .ok .rbConfigure ∧
  decode 0x00000021#32 = .ok .rbInit ∧ decode 0x00000022#32 = .ok .rbWrite ∧ decode 0x00001023#32 = .ok (.rbRead 1) ∧
  decode 0x00000030#32 = .ok .cvtS2n ∧ decode 0x00000031#32 = .ok .cvtT2f

/-- R96, R251 (1) to (3), R253: in every state the executor's turn completes a word with an unassigned OP by error 1, one with a non-zero
RSV or unused field by error 2, and one with an index out of range by error 3, with no other effect. That ERRINFO takes V and CH from the
word even where its command does not use them is log 21's reading of R25; the turn comes as an event or when none is left (log 4). -/
def Obligations.IllegalWordsAbort : Prop :=
  ∀ (s : State) (e : Entry) (rest : List Event), s.rst = false → s.executorTurn rest → s.inflight = some e →
    let next := { s with inputs := rest }
    let op := e.word.toNat % 256
    let v := e.word.toNat / 256 % 16
    let ch := e.word.toNat / 4096 % 16
    let rsv := e.word.toNat / 65536
    let assigned := [0x00, 0x01, 0x02, 0x03, 0x04, 0x10, 0x11, 0x12, 0x13, 0x14, 0x20, 0x21, 0x22, 0x23, 0x30, 0x31]
    let usesV := [0x02, 0x10, 0x11, 0x12, 0x13, 0x14]
    let usesCh := [0x10, 0x11, 0x12, 0x13, 0x14, 0x23]
    let clear := rsv = 0 ∧ (op ∉ usesV → v = 0) ∧ (op ∉ usesCh → ch = 0)
    (op ∉ assigned → step s = .next (next.afterError 1 8 op v ch)) ∧
    (op ∈ assigned → ¬ clear → step s = .next (next.afterError 2 8 op v ch)) ∧
    (op ∈ assigned → clear → (op ∈ usesV ∧ s.params.nvoice ≤ v) ∨ (op ∈ usesCh ∧ s.params.nch ≤ ch) →
      step s = .next (next.afterError 3 8 op v ch))

/-! ## The executor -/

/-- R12, R72: when the word in flight decodes to a command, the executor's move is that command's execution, and nothing is added to
it but taking the event from the list of inputs (the model's own field, log 4). -/
def Obligations.StepRunsDecodedCommand : Prop :=
  ∀ (s : State) (e : Entry) (i : Instr), s.rst = false → s.inflight = some e → decode e.word = .ok i →
    (s.inputs = [] → step s = exec i s) ∧
    (∀ rest, s.inputs = .turn :: rest → step s = exec i { s with inputs := rest })

/-- R21, R26, R270: with no command in flight the executor's turn takes the oldest entry of the FIFO and changes nothing else; with an
empty FIFO it is idle and every piece of state is retained. The turn comes as an event, which is used up, or when none is left (log 4). -/
def Obligations.ExecutorTakesOldest : Prop :=
  ∀ (s : State) (rest : List Event), s.rst = false → s.executorTurn rest → s.inflight = none →
    (∀ e waiting, s.fifo = e :: waiting → step s = .next { s with inputs := rest, inflight := some e, fifo := waiting }) ∧
    (s.fifo = [] → step s = .next { s with inputs := rest })

/-- R251 (4), (5), R253, and the checks of the command rules: which state and operands abort which command, by code 4 or 5, with no
other effect. -/
def Obligations.StateAndOperandChecksAbort : Prop :=
  ∀ s : State,
    (s.prepared = false → exec .process s = .next (s.afterError 4 9 0x04 0 0)) ∧
    (s.cap = 0#32 → exec .rbInit s = .next (s.afterError 4 9 0x21 0 0) ∧
      exec .rbWrite s = .next (s.afterError 4 9 0x22 0 0)) ∧
    (∀ ch : Fin 16, ch.val < s.params.nch → s.cap = 0#32 → exec (.rbRead ch) s = .next (s.afterError 4 9 0x23 0 ch)) ∧
    (s.operand0.toNat < 8000 ∨ 192000 < s.operand0.toNat ∨ s.operand1.toNat < 1 ∨ 2048 < s.operand1.toNat →
      exec .prepare s = .next (s.afterError 5 10 0x01 0 0)) ∧
    (s.operand0.toNat < 1 ∨ 192000 < s.operand0.toNat ∨ s.operand1.toNat < 1 ∨ 2048 < s.operand1.toNat →
      exec .rbConfigure s = .next (s.afterError 5 10 0x20 0 0)) ∧
    (isNaN s.operand0 = true → exec .setWindow s = .next (s.afterError 5 10 0x03 0 0)) ∧
    (isFinite s.operand0 = false ∨ units s.operand0 < 0 ∨ s.operand1 = 0#32 ∨ 2 ^ 24 < s.operand1.toNat ∨
        fmul s.operand0 (i2f s.operand1.toNat) = 0x7F800000#32 ∨
        2 ^ 32 - 1 < roundAway (fmul s.operand0 (i2f s.operand1.toNat)) →
      exec .cvtS2n s = .next (s.afterError 5 10 0x30 0 0)) ∧
    (∀ v : Fin 16, v.val < s.params.nvoice →
      (isNaN s.operand0 = true → exec (.setTranspo v) s = .next (s.afterError 5 10 0x02 v 0)) ∧
      ∀ ch : Fin 16, ch.val < s.params.nch →
        (s.prepared = false → exec (.oscNext v ch) s = .next (s.afterError 4 9 0x14 v ch)) ∧
        (isFinite s.operand0 = false → exec (.oscSetFreq v ch) s = .next (s.afterError 5 10 0x11 v ch)) ∧
        (s.operand0 ≠ 0#32 → exec (.oscSetType v ch) s = .next (s.afterError 5 10 0x12 v ch)) ∧
        (1 < s.operand0.toNat → exec (.oscSetDebug v ch) s = .next (s.afterError 5 10 0x13 v ch)))

/-- R67, R72: whatever a command does, when it goes on it changes none of the host's side of the state, it leaves the in-flight slot
empty and CMDDONE set. -/
def Obligations.CommandsLeaveHostSide : Prop :=
  ∀ (i : Instr) (s t : State), exec i s = .next t →
    s.hostSideSame t ∧ t.inflight = none ∧ t.sticky &&& 0x00000020#32 = 0x00000020#32

/-- R256: no step is refused, and the only steps that fault are those of a PROCESS, RB_WRITE or RB_READ that reads a cell that is
undefined (R61, R63). The faults are the treatment spec/93 gives (log 11). -/
def Obligations.ErrorsNeverStopTheBlock : Prop :=
  (∀ (s : State) (r : Refusal), step s ≠ .refused r) ∧
  (∀ (s : State) (ch n : Nat), step s = .fault (.undefinedIoCell ch n) →
    (s.inflightCommand = some .process ∨ s.inflightCommand = some .rbWrite) ∧ (s.ioMem ch).read n = none) ∧
  (∀ (s : State) (ch i : Nat), s.memoryLegal → step s = .fault (.undefinedRingCell ch i) →
    (s.inflightCommand = some .process ∨ ∃ c, s.inflightCommand = some (.rbRead c)) ∧ (s.ringMem ch).read i = none)

/-! ## Numbers -/

/-- R120: `rne32` of n/d units of 2^-149 is the nearest finite binary32, a tie going to the even one, and is ∞ exactly from half a unit in
the last place above the largest finite value on. -/
def Obligations.RoundingIsNearestEven : Prop :=
  ∀ n d : Nat, 0 < d →
    (rneMag n d = 0x7F800000 ↔ (2 ^ 25 - 1) * 2 ^ 252 * d ≤ n) ∧ rneMag n d ≤ 0x7F800000 ∧
    (rneMag n d < 0x7F800000 → ∀ m, m < 0x7F800000 → m ≠ rneMag n d →
      |(magUnits (rneMag n d) * d : Int) - n| < |(magUnits m * d : Int) - n| ∨
      (|(magUnits (rneMag n d) * d : Int) - n| = |(magUnits m * d : Int) - n| ∧ rneMag n d % 2 = 0))

/-- R123, R127: mod1 of a finite number is a phase in [0, 1): the binary32 nearest to the fractional part, a tie going to the even one and
a rounded 1.0 to +0.0; it is exactly the fractional part when the number is not negative; of an infinity or a NaN it is NaN. And `split`
is exact. -/
def Obligations.ModOneAndSplitAreExact : Prop :=
  (∀ x : Word,
    (isFinite x = true → unitPhase (mod1 x) ∧
      (∃ y : Nat, y ≤ 0x3F800000 ∧ mod1 x = (if y = 0x3F800000 then 0#32 else w32 y) ∧
        ∀ m : Nat, m < 0x7F800000 → m ≠ y →
          |(magUnits y : Int) - units x % 2 ^ 149| < |(magUnits m : Int) - units x % 2 ^ 149| ∨
          (|(magUnits y : Int) - units x % 2 ^ 149| = |(magUnits m : Int) - units x % 2 ^ 149| ∧ y % 2 = 0)) ∧
      (0 ≤ units x → units (mod1 x) = units x % 2 ^ 149)) ∧
    (isFinite x = false → mod1 x = 0x7FC00000#32)) ∧
  (∀ d : Word, isFinite d = true → 0 ≤ units d →
    units d = splitInt d * 2 ^ 149 + units (splitFrac d) ∧ unitPhase (splitFrac d))

/-- R217: Reader B's phase is in [0, 1) and half a cycle from Reader A's to within 2^-24; exactly so when pA is at least 0.5 and a multiple
of 2^-23. -/
def Obligations.ReaderBHalfCycle : Prop :=
  ∀ p : Word, unitPhase p →
    unitPhase (phaseB p) ∧
    (∃ k : Int, |units (phaseB p) + k * 2 ^ 149 - (units p + 2 ^ 148)| ≤ 2 ^ 125) ∧
    (2 ^ 148 ≤ units p → units p % 2 ^ 126 = 0 → units (phaseB p) = units p - 2 ^ 148)

/-- R125, S1 to S4, on every instance. Another instance's function is a free value put into this shape (log 2). -/
def Obligations.EnvelopeProperties : Prop :=
  ∀ f : FnChoice,
    sinPi f 0x00000000#32 = 0x00000000#32 ∧ sinPi f 0x3F000000#32 = 0x3F800000#32 ∧ sinPi f 0x3F800000#32 = 0x00000000#32 ∧
    ∀ p : Word, unitPhase p → p ≠ 0#32 →
      isNaN (sinPi f p) = false ∧ 0 < units (sinPi f p) ∧ units (sinPi f p) ≤ units 0x3F800000#32

/-- R126, X1 to X4, on every instance. Another instance's function is a free value put into this shape (log 2). -/
def Obligations.ExponentialProperties : Prop :=
  ∀ f : FnChoice,
    exp2 f 0x00000000#32 = 0x3F800000#32 ∧ exp2 f 0x80000000#32 = 0x3F800000#32 ∧
    exp2 f 0x3F800000#32 = 0x40000000#32 ∧ exp2 f 0xBF800000#32 = 0x3F000000#32 ∧
    (∀ q r : Word, isFinite q = true → isFinite r = true → units q ≤ units r →
      isNaN (exp2 f q) = false ∧ units (exp2 f q) ≤ units (exp2 f r)) ∧
    (∀ q : Word, isFinite q = true → units 0xBF800000#32 ≤ units q → units q ≤ units 0x3F800000#32 →
      isFinite (exp2 f q) = true ∧ units 0x3F000000#32 ≤ units (exp2 f q) ∧ units (exp2 f q) ≤ units 0x40000000#32)

/-- R131: for a fixed finite m > 0, T2F is non-decreasing in s, and at s = ±0.0 it is fdiv(1000, m). -/
def Obligations.FrequencyMonotone : Prop :=
  ∀ (f : FnChoice) (m : Word), isFinite m = true → 0 < units m →
    transpoToFreq f 0x00000000#32 m = fdiv 0x447A0000#32 m ∧ transpoToFreq f 0x80000000#32 m = fdiv 0x447A0000#32 m ∧
    ∀ s s' : Word, isFinite s = true → isFinite s' = true → units s ≤ units s' →
      isNaN (transpoToFreq f s m) = false ∧ units (transpoToFreq f s m) ≤ units (transpoToFreq f s' m)

/-! ## Utility commands -/

/-- R132: on operands that pass its checks CVT_S2N completes with RESULT = Round(fmul(sec, i2f(sr))) and changes nothing else. -/
def Obligations.CvtS2nCounts : Prop :=
  ∀ s : State, isFinite s.operand0 = true → 0 ≤ units s.operand0 → 1 ≤ s.operand1.toNat → s.operand1.toNat ≤ 2 ^ 24 →
    fmul s.operand0 (i2f s.operand1.toNat) ≠ 0x7F800000#32 →
    roundAway (fmul s.operand0 (i2f s.operand1.toNat)) ≤ 2 ^ 32 - 1 →
    ∃ x : Word, (x.toNat : Int) = roundAway (fmul s.operand0 (i2f s.operand1.toNat)) ∧
      exec .cvtS2n s = .next { s.afterCommand with result := x }

/-- R131, R133: CVT_T2F completes on all operands with RESULT = fdiv(fmul(Exp2(fdiv(s, 12)), 1000), m) and changes nothing else. -/
def Obligations.CvtT2fComputes : Prop :=
  ∀ s : State, exec .cvtT2f s =
    .next { s.afterCommand with
      result := fdiv (fmul (exp2 s.params.expFn (fdiv s.operand0 0x41400000#32)) 0x447A0000#32) s.operand1 }

/-! ## Oscillator commands -/

/-- R153, R155, R158, R160: on legal indices and operands each oscillator setter completes, writes its one field of its one oscillator
and changes nothing else. -/
def Obligations.OscSettersWriteOneField : Prop :=
  ∀ (s : State) (v ch : Fin 16), v.val < s.params.nvoice → ch.val < s.params.nch →
    let onlyOsc := fun (o : Osc) (i : Instr) => ∃ t, exec i s = .next t ∧ t.osc v ch = o ∧
      (∀ u c, c < 8 → ¬ (u = v.val ∧ c = ch.val) → t.osc u c = s.osc u c) ∧ { t with oscs := s.oscs } = s.afterCommand
    onlyOsc { s.osc v ch with phase := 0#32 } (.oscInit v ch) ∧
    (isFinite s.operand0 = true → onlyOsc { s.osc v ch with freq := s.operand0 } (.oscSetFreq v ch)) ∧
    (s.operand0 = 0#32 → onlyOsc { s.osc v ch with type := 0#2 } (.oscSetType v ch)) ∧
    (s.operand0 = 0#32 → onlyOsc { s.osc v ch with debug := false } (.oscSetDebug v ch)) ∧
    (s.operand0 = 1#32 → onlyOsc { s.osc v ch with debug := true } (.oscSetDebug v ch))

/-- R151, R162: OSC_NEXT, once PREPARED, completes with RESULT = the phase before, advances that oscillator's phase by
fdiv(OFREQ, i2f(SR)) modulo 1, and changes nothing else. -/
def Obligations.OscNextReturnsThenAdvances : Prop :=
  ∀ (s : State) (v ch : Fin 16), v.val < s.params.nvoice → ch.val < s.params.nch → s.prepared = true →
    ∃ t, exec (.oscNext v ch) s = .next t ∧ t.result = (s.osc v ch).phase ∧
      t.osc v ch = { s.osc v ch with
        phase := mod1 (fadd (s.osc v ch).phase (fdiv (s.osc v ch).freq (i2f s.sr.toNat))) } ∧
      (∀ u c, c < 8 → ¬ (u = v.val ∧ c = ch.val) → t.osc u c = s.osc u c) ∧
      { t with oscs := s.oscs, result := s.result } = s.afterCommand

/-- R152: from PHASE = +0.0, with an increment a/2^b, b ≤ 23, below 1, the phase call k + 1 of OSC_NEXT returns is frac(k·a/2^b)
exactly. -/
def Obligations.PhaseLawExact : Prop :=
  ∀ (s : State) (v ch : Fin 16) (a b k : Nat), v.val < s.params.nvoice → ch.val < s.params.nch → s.prepared = true →
    (s.osc v ch).phase = 0#32 → b ≤ 23 → a < 2 ^ b →
    isFinite (fdiv (s.osc v ch).freq (i2f s.sr.toNat)) = true →
    units (fdiv (s.osc v ch).freq (i2f s.sr.toNat)) = a * 2 ^ (149 - b) →
    ∃ t u, repeatCommand (.oscNext v ch) k s = some t ∧ exec (.oscNext v ch) t = .next u ∧
      isFinite u.result = true ∧ units u.result = (k * a % 2 ^ b : Nat) * 2 ^ (149 - b)

/-! ## Ring-buffer commands -/

/-- R181: on legal operands RB_CONFIGURE completes, sets CAP, BLKSZ and WPTR = 0, and changes nothing else. -/
def Obligations.RbConfigureSetsGeometry : Prop :=
  ∀ s : State, 1 ≤ s.operand0.toNat → s.operand0.toNat ≤ 192000 → 1 ≤ s.operand1.toNat → s.operand1.toNat ≤ 2048 →
    exec .rbConfigure s = .next { s.afterCommand with cap := s.operand0, blksz := s.operand1, wptr := 0#32 }

/-- R182: with a capacity, RB_INIT completes, makes cells 0..CAP-1 of every channel +0.0 and no other, sets WPTR = 0 and changes nothing
else. -/
def Obligations.RbInitZeroFills : Prop :=
  ∀ s : State, s.memoryLegal → s.cap ≠ 0#32 →
    ∃ t, exec .rbInit s = .next t ∧
      (∀ ch i, ch < 8 → (t.ringMem ch).read i =
        if ch < s.params.nch ∧ i < s.cap.toNat then some 0#32 else (s.ringMem ch).read i) ∧
      { t with ring := s.ring } = { s.afterCommand with wptr := 0#32 }

/-- R183, R184: with a capacity and the block defined, RB_WRITE completes; sample j of each channel goes to cell (WPTR + j) mod CAP, a
later sample of the block over an earlier one; no other cell changes; WPTR advances by BLKSZ modulo CAP; nothing else changes, the
I/O buffer included. -/
def Obligations.RbWriteStoresBlock : Prop :=
  ∀ s : State, s.memoryLegal → s.cap ≠ 0#32 → s.blockDefined →
    ∃ t, exec .rbWrite s = .next t ∧
      (∀ ch, ch < s.params.nch → ∀ j, j < s.blksz.toNat →
        (∀ l, j < l → l < s.blksz.toNat → (s.wptr.toNat + l) % s.cap.toNat ≠ (s.wptr.toNat + j) % s.cap.toNat) →
        (t.ringMem ch).read ((s.wptr.toNat + j) % s.cap.toNat) = (s.ioMem ch).read j) ∧
      (∀ ch i, ch < 8 → (ch < s.params.nch → ∀ j, j < s.blksz.toNat → (s.wptr.toNat + j) % s.cap.toNat ≠ i) →
        (t.ringMem ch).read i = (s.ringMem ch).read i) ∧
      { t with ring := s.ring } =
        { s.afterCommand with wptr := w32 ((s.wptr.toNat + s.blksz.toNat) % s.cap.toNat) }

/-- R187, R188, R189: with a capacity and the cells in use defined, RB_READ completes with RESULT the interpolated value, or, when the
read is out of range, with RESULT = +0.0 and error 7 recorded without aborting; it changes nothing else. -/
def Obligations.RbReadInterpolates : Prop :=
  ∀ (s : State) (ch : Fin 16), ch.val < s.params.nch → s.cap ≠ 0#32 →
    let n : Int := if s.operand0.toNat < 2 ^ 31 then s.operand0.toNat else s.operand0.toNat - 2 ^ 32
    (s.tapsInRange n s.operand1 → s.ringDefined →
      exec (.rbRead ch) s = .next { s.afterCommand with result := s.readAt ch n s.operand1 }) ∧
    (¬ s.tapsInRange n s.operand1 →
      exec (.rbRead ch) s = .next { s.afterError 7 12 0x23 0 ch with result := 0#32 })

/-- R61, R63, spec/93 U3, U4 (log 11): RB_WRITE, and PROCESS once PREPARED, on a block with an undefined cell stop with the fault that
names one; RB_READ in range stops with the fault that names its newer tap's cell where that is undefined, or else, where it interpolates,
its older tap's; PROCESS on a defined block stops with the fault that names an undefined ring cell exactly when one of its reads, the
block written, reaches one, and completes otherwise. None gives a value. -/
def Obligations.UndefinedCellsFault : Prop :=
  (∀ s : State, s.cap ≠ 0#32 → ¬ s.blockDefined →
    ∃ ch n, ch < s.params.nch ∧ n < s.blksz.toNat ∧ (s.ioMem ch).read n = none ∧
      exec .rbWrite s = .fault (.undefinedIoCell ch n) ∧
      (s.prepared = true → exec .process s = .fault (.undefinedIoCell ch n))) ∧
  (∀ (s : State) (ch : Fin 16), ch.val < s.params.nch → s.cap ≠ 0#32 →
    s.tapsInRange (i32 s.operand0) s.operand1 →
    let newer := s.ageCell (s.tapAge (i32 s.operand0) s.operand1)
    let older := s.ageCell (s.tapAge (i32 s.operand0) s.operand1 + 1)
    ((s.ringMem ch).read newer = none → exec (.rbRead ch) s = .fault (.undefinedRingCell ch newer)) ∧
    ((s.ringMem ch).read newer ≠ none → isZero (splitFrac s.operand1) = false → (s.ringMem ch).read older = none →
      exec (.rbRead ch) s = .fault (.undefinedRingCell ch older))) ∧
  (∀ s : State, s.prepared = true → s.cap ≠ 0#32 → s.blockDefined →
    ∃ u, s.ringWriteBlock = .ok u ∧
      (u.processReadsUndefined → ∃ ch i, ch < s.params.nch ∧ i < s.cap.toNat ∧ (u.ringMem ch).read i = none ∧
        exec .process s = .fault (.undefinedRingCell ch i)) ∧
      (¬ u.processReadsUndefined → ∃ t, exec .process s = .next t))

/-- R190: after an RB_WRITE with BLKSZ ≤ CAP, a read at zero delay and index m in the block gives the block's sample m exactly; at an
index before the block, still in the ring, it gives what the read one block further gave before the write. -/
def Obligations.BlockRoundTrip : Prop :=
  ∀ (s t : State) (ch : Nat), s.memoryLegal → s.cap ≠ 0#32 → s.blksz.toNat ≤ s.cap.toNat → s.blockDefined →
    exec .rbWrite s = .next t → ch < s.params.nch →
    (∀ m : Nat, m < s.blksz.toNat → some (t.readAt ch m 0#32) = (s.ioMem ch).read m) ∧
    (∀ m : Int, m < 0 → (s.blksz.toNat : Int) - s.cap.toNat ≤ m →
      t.readAt ch m 0#32 = s.readAt ch (m + s.blksz.toNat) 0#32)

/-- R191: the engine's reads (index n - W, n in the block, delay in [0, W]) are in range for every n and every delay exactly when
BLKSZ + 2·W ≤ CAP. -/
def Obligations.CapacityBoundExact : Prop :=
  ∀ s : State, 1 ≤ s.blksz.toNat → s.winSamp.toNat ≤ 2 ^ 24 →
    ((∀ (n : Nat) (d : Word), n < s.blksz.toNat → isFinite d = true → 0 ≤ units d →
        units d ≤ (s.winSamp.toNat : Int) * 2 ^ 149 → s.tapsInRange ((n : Int) - s.winSamp.toNat) d) ↔
      s.blksz.toNat + 2 * s.winSamp.toNat ≤ s.cap.toNat)

/-! ## Engine commands -/

/-- R210: NOP completes with only CMDDONE set; at the executor's turn a NOP word with V, CH or RSV not 0 aborts with error 2. The V and CH
that ERRINFO then takes are log 21's reading of R25; the turn comes as an event or when none is left (log 4). -/
def Obligations.NopOnlyCompletes : Prop :=
  (∀ s : State, exec .nop s = .next s.afterCommand) ∧
  (∀ (s : State) (e : Entry) (rest : List Event), s.rst = false → s.executorTurn rest → s.inflight = some e →
    e.word.toNat % 256 = 0 → e.word ≠ 0#32 →
    step s = .next ({ s with inputs := rest }.afterError 2 8 0 (e.word.toNat / 256 % 16) (e.word.toNat / 4096 % 16)))

/-- R212: on legal operands PREPARE completes and leaves every register, ring cell and oscillator as its rule says; it changes nothing
else. -/
def Obligations.PrepareSetsUpEngine : Prop :=
  ∀ s : State, s.memoryLegal → 8000 ≤ s.operand0.toNat → s.operand0.toNat ≤ 192000 → 1 ≤ s.operand1.toNat →
    s.operand1.toNat ≤ 2048 →
    let freq := fun v => transpoToFreq s.params.expFn (s.voice v).transpo s.winMs
    ∃ t, exec .prepare s = .next t ∧
      t.sr = s.operand0 ∧ t.cap = s.operand0 ∧ t.blksz = s.operand1 ∧ t.wptr = 0#32 ∧ t.blkcnt = 0#32 ∧
      t.prepared = true ∧
      t.winSamp = w32 (roundAway (fmul (fdiv s.winMs 0x447A0000#32) (i2f s.operand0.toNat))).toNat ∧
      (∀ v, t.voice v = if v < s.params.nvoice then { s.voice v with freq := freq v } else s.voice v) ∧
      (∀ v ch, ch < 8 → t.osc v ch =
        if v < s.params.nvoice ∧ ch < s.params.nch then { s.osc v ch with phase := 0#32, freq := freq v }
        else s.osc v ch) ∧
      (∀ ch i, ch < 8 → (t.ringMem ch).read i =
        if ch < s.params.nch ∧ i < s.operand0.toNat then some 0#32 else (s.ringMem ch).read i) ∧
      { t with sr := s.sr, cap := s.cap, blksz := s.blksz, wptr := s.wptr, blkcnt := s.blkcnt, prepared := s.prepared,
               winSamp := s.winSamp, voices := s.voices, oscs := s.oscs, ring := s.ring } = s.afterCommand

/-- R212, R223: for every legal rate the capacity is the rate, and it exceeds two 300 ms windows by at least 3200, so PREPARE's capacity
check never fails. -/
def Obligations.CapacityCheckNeverFails : Prop :=
  ∀ sr : Nat, 8000 ≤ sr → sr ≤ 192000 → capacityFor sr = sr ∧ 2 * windowSamples 0x43960000#32 sr + 3200 ≤ sr

/-- R224: a second PREPARE with the same operands, nothing between, leaves the same state. -/
def Obligations.PrepareIdempotent : Prop :=
  ∀ (s t : State) (e : Entry), s.inflight = some e → exec .prepare s = .next t →
    exec .prepare { t with inflight := some e } = .next t

/-- R211, R214, R124: SET_TRANSPO of a number completes, stores it clamped to [-12, 12], sets W_CLAMP exactly when clamping changed it,
recomputes the frequency of that voice and of its oscillators, and changes nothing else. -/
def Obligations.SetTranspoClamps : Prop :=
  ∀ (s : State) (v : Fin 16), v.val < s.params.nvoice → isNaN s.operand0 = false →
    let c : Word := if units s.operand0 < -12 * 2 ^ 149 then 0xC1400000#32
      else if 12 * 2 ^ 149 < units s.operand0 then 0x41400000#32 else s.operand0
    let f := transpoToFreq s.params.expFn c s.winMs
    ∃ t, exec (.setTranspo v) s = .next t ∧
      t.voice v = { transpo := c, freq := f } ∧ (∀ u, u ≠ v.val → t.voice u = s.voice u) ∧
      (∀ u ch, ch < 8 → t.osc u ch =
        if u = v.val ∧ ch < s.params.nch then { s.osc u ch with freq := f } else s.osc u ch) ∧
      t.sticky = s.sticky ||| (if c = s.operand0 then 0#32 else 0x00004000#32) ||| 0x00000020#32 ∧
      { t with voices := s.voices, oscs := s.oscs, sticky := s.afterCommand.sticky } = s.afterCommand

/-- R211, R215, R124: SET_WINDOW of a number completes, stores it clamped to [5, 300], sets W_CLAMP exactly when clamping changed it,
recomputes WIN_SAMP when PREPARED and every voice's frequency, and changes nothing else. -/
def Obligations.SetWindowClamps : Prop :=
  ∀ s : State, isNaN s.operand0 = false →
    let c : Word := if units s.operand0 < 5 * 2 ^ 149 then 0x40A00000#32
      else if 300 * 2 ^ 149 < units s.operand0 then 0x43960000#32 else s.operand0
    let f := fun v => transpoToFreq s.params.expFn (s.voice v).transpo c
    ∃ t, exec .setWindow s = .next t ∧ t.winMs = c ∧
      t.winSamp = (if s.prepared then
        w32 (roundAway (fmul (fdiv c 0x447A0000#32) (i2f s.sr.toNat))).toNat else s.winSamp) ∧
      (∀ v, t.voice v = if v < s.params.nvoice then { s.voice v with freq := f v } else s.voice v) ∧
      (∀ v ch, ch < 8 → t.osc v ch =
        if v < s.params.nvoice ∧ ch < s.params.nch then { s.osc v ch with freq := f v } else s.osc v ch) ∧
      t.sticky = s.sticky ||| (if c = s.operand0 then 0#32 else 0x00004000#32) ||| 0x00000020#32 ∧
      { t with winMs := s.winMs, winSamp := s.winSamp, voices := s.voices, oscs := s.oscs,
               sticky := s.afterCommand.sticky } = s.afterCommand

/-- R220, with R188, R254: a PROCESS that is ready and whose cells are defined completes: DONE and CMDDONE are set, E_RANGE with them when
a read is out of range, and then ERRINFO captures code 7 with OP 0x04 if its CODE was 0; BLKCNT counts the PROCESS modulo 2^32, WPTR
advances, I/O cells from BLKSZ on and channels the instance lacks keep their contents, of an oscillator only the phase changes, and
everything but these and the ring is unchanged. -/
def Obligations.ProcessCompletes : Prop :=
  ∀ s : State, s.memoryLegal → s.prepared = true → s.cap ≠ 0#32 → s.blockDefined → s.ringDefined →
    ∃ t, exec .process s = .next t ∧
      (s.processReadsOutOfRange → t.sticky = s.sticky ||| 0x00001030#32 ∧
        t.errinfo = if s.errinfo.toNat % 256 = 0 then 0x00000407#32 else s.errinfo) ∧
      (¬ s.processReadsOutOfRange → t.sticky = s.sticky ||| 0x00000030#32 ∧ t.errinfo = s.errinfo) ∧
      t.blkcnt = s.blkcnt + 1#32 ∧ t.wptr = w32 ((s.wptr.toNat + s.blksz.toNat) % s.cap.toNat) ∧
      (∀ ch n, ch < 8 → (s.params.nch ≤ ch ∨ s.blksz.toNat ≤ n) → (t.ioMem ch).read n = (s.ioMem ch).read n) ∧
      (∀ v ch, ch < 8 → { t.osc v ch with phase := (s.osc v ch).phase } = s.osc v ch) ∧
      (∀ v ch, ch < 8 → (s.params.nvoice ≤ v ∨ s.params.nch ≤ ch) → t.osc v ch = s.osc v ch) ∧
      { t with blkcnt := s.blkcnt, wptr := s.wptr, io := s.io, ring := s.ring, oscs := s.oscs, errinfo := s.errinfo,
               sticky := s.afterCommand.sticky } = s.afterCommand

/-- R217 to R222, R225: what PROCESS computes. With `u` the state after the block is written to the ring, output sample n of channel ch is
the voices' tap sums added in ascending order from +0.0, times OUT_GAIN, each tap with the oscillator's phase after n steps; every
oscillator ends BLKSZ steps on; and the ring holds what `u` holds. -/
def Obligations.ProcessComputesBlock : Prop :=
  ∀ s u t : State, s.memoryLegal → s.prepared = true → s.ringWriteBlock = .ok u → exec .process s = .next t →
    (∀ ch n, ch < s.params.nch → n < s.blksz.toNat →
      (t.ioMem ch).read n = some (fmul (u.mixAt ch n s.params.nvoice) 0x3F004DCE#32)) ∧
    (∀ v ch, v < s.params.nvoice → ch < s.params.nch → (t.osc v ch).phase = s.phaseAt v ch s.blksz.toNat) ∧
    t.ring = u.ring

/-- R223: with the engine's invariants and BLKSZ + 2·WIN_SAMP ≤ CAP no read of a PROCESS is out of range: E_RANGE and ERRINFO keep their
values. -/
def Obligations.ReadsStayInRange : Prop :=
  ∀ s t : State, s.engineLegal → s.cursorLegal → s.prepared = true → s.capacityEnough → exec .process s = .next t →
    t.sticky = s.sticky ||| 0x00000030#32 ∧ t.errinfo = s.errinfo

/-- R191, R223: a PREPARE that completes, from the engine's invariants, gives what the capacity bound rests on; that gives the bound; and
every step keeps it but a reset and an RB_CONFIGURE that completes without error. -/
def Obligations.CapacityHoldsUntilConfigured : Prop :=
  (∀ s : State, s.engineLegal → 8000 ≤ s.operand0.toNat → s.operand0.toNat ≤ 192000 → 1 ≤ s.operand1.toNat →
    s.operand1.toNat ≤ 2048 → ∃ t, exec .prepare s = .next t ∧ t.preparedRange) ∧
  (∀ s : State, s.preparedRange → s.capacityEnough) ∧
  (∀ s t : State, s.preparedRange → step s = .next t → ¬ s.configures → (∀ rest, s.inputs ≠ .drive true :: rest) →
    t.preparedRange)

/-- R224: a PROCESS of a silent block over a silent ring completes with silence, on every instance, and leaves the ring silent. -/
def Obligations.SilenceInSilenceOut : Prop :=
  ∀ s : State, s.memoryLegal → s.engineLegal → s.prepared = true → s.cap ≠ 0#32 →
    (∀ ch n, ch < s.params.nch → n < s.blksz.toNat → (s.ioMem ch).read n = some 0#32) →
    (∀ ch i, ch < s.params.nch → i < s.cap.toNat → (s.ringMem ch).read i = some 0#32) →
    ∃ t, exec .process s = .next t ∧
      (∀ ch n, ch < s.params.nch → n < s.blksz.toNat → (t.ioMem ch).read n = some 0#32) ∧
      (∀ ch i, ch < s.params.nch → i < s.cap.toNat → (t.ringMem ch).read i = some 0#32)

/-- R226: two states that agree on what channel ch of a PROCESS depends on, and on nothing else, give the same output on that channel,
the same ring contents and the same phases. -/
def Obligations.ChannelsAreIndependent : Prop :=
  ∀ (s s' t t' : State) (ch : Nat), s.memoryLegal → s'.memoryLegal → s.params = s'.params → ch < s.params.nch →
    s.winSamp = s'.winSamp → s.blksz = s'.blksz → s.wptr = s'.wptr → s.cap = s'.cap → s.sr = s'.sr → s.cap ≠ 0#32 →
    (∀ n, n < s.blksz.toNat → (s.ioMem ch).read n = (s'.ioMem ch).read n) →
    (∀ i, i < s.cap.toNat → (s.ringMem ch).read i = (s'.ringMem ch).read i) →
    (∀ v, v < s.params.nvoice → (s.osc v ch).phase = (s'.osc v ch).phase ∧ (s.osc v ch).freq = (s'.osc v ch).freq) →
    s.prepared = true → s'.prepared = true → exec .process s = .next t → exec .process s' = .next t' →
    (∀ n, n < s.blksz.toNat → (t.ioMem ch).read n = (t'.ioMem ch).read n) ∧
    (∀ i, i < s.cap.toNat → (t.ringMem ch).read i = (t'.ringMem ch).read i) ∧
    (∀ v, v < s.params.nvoice → (t.osc v ch).phase = (t'.osc v ch).phase)

/-! ## The host's side -/

/-- R50, R260 with R23: the interrupt line is 1 exactly when some source is pending and enabled; and the word STATUS reads as, bit by
bit. -/
def Obligations.IrqIsEnabledPending : Prop :=
  ∀ s : State,
    s.irq = ([4, 5, 8, 9, 10, 11, 12, 13, 14].any fun i => s.statusWord.getLsbD i && s.irqen.getLsbD i) ∧
    s.statusWord.getLsbD 0 = s.inflight.isSome ∧
    s.statusWord.getLsbD 1 = decide (0 < s.fifo.length) ∧
    s.statusWord.getLsbD 2 = decide (s.fifo.length = s.params.qdepth) ∧
    s.statusWord.getLsbD 3 = s.prepared ∧
    ∀ i, 4 ≤ i → s.statusWord.getLsbD i =
      (decide (i ∈ [4, 5, 8, 9, 10, 11, 12, 13, 14]) && s.sticky.getLsbD i)

/-- R22, R27, R41: with no command in flight, or a word in flight whose OP selects none, an aligned word read of a register offset returns
what the register map says: the listed registers, the slots of voices and oscillators the instance has, and 0 at every other offset; it
changes nothing but the response, a field of the model's own (log 9). -/
def Obligations.RegisterMapReads : Prop :=
  ∀ (s : State) (off : Nat) (rest : List Event), s.rst = false → s.inflightCommand = none → off % 4 = 0 →
    off < 0x10000 → s.inputs = .access (.read off 4) :: rest →
    let single : List (Nat × Word) :=
      [(0x000, 0x50534331#32), (0x004, s.statusWord), (0x008, s.errinfo), (0x00C, s.irqen), (0x014, s.arg0),
       (0x018, s.arg1), (0x01C, s.result), (0x020, s.blkcnt), (0x024, s.sr), (0x028, s.blksz), (0x02C, s.cap),
       (0x030, s.wptr), (0x034, s.winMs), (0x038, s.winSamp), (0x03C, 0x3F004DCE#32),
       (0x040, w32 (s.params.nch + 16 * s.params.nvoice + 256 * s.params.qdepth + 65536 * 2048)),
       (0x044, 192000#32), (0x048, w32 (s.fifo.length % 32))]
    let voices := (List.range s.params.nvoice).flatMap fun v =>
      [(0x080 + 4 * v, (s.voice v).transpo), (0x090 + 4 * v, (s.voice v).freq)]
    let oscs := (List.range s.params.nvoice).flatMap fun v => (List.range s.params.nch).flatMap fun ch =>
      let o := s.osc v ch
      [(0x100 + 4 * (8 * v + ch), o.phase), (0x200 + 4 * (8 * v + ch), o.freq),
       (0x300 + 4 * (8 * v + ch), w32 (o.type.toNat + if o.debug then 256 else 0))]
    step s = .next { s with inputs := rest,
                            resp := some { data := ((single ++ voices ++ oscs).lookup off).getD 0#32, err := false } }

/-- R65, R62: the I/O buffer window is little-endian: byte k of a cell's four is bits 8k+7 to 8k of its word. -/
def Obligations.IoWindowLittleEndian : Prop :=
  ∀ (s : State) (ch n k : Nat) (w : Word), ch < s.params.nch → n < 2048 → k < 4 → (s.ioMem ch).read n = some w →
    s.ioByte (0x10000 + 4 * (2048 * ch + n) + k) = some (w.extractLsb' (8 * k) 8)

/-- R62, R63, R67, R69: with no PROCESS or RB_WRITE in flight, a host write to an I/O cell of a channel the instance has completes, and a
read of the same offset then returns the word; every other cell keeps its contents; nothing else changes. A read of any defined cell
returns its word, and one of an undefined cell the next free value, of which nothing is known (spec/93 U4, log 8). At an offset of a
channel the instance lacks a read returns 0 and a write does nothing, whatever is in flight. The response field is the model's own (log
9). -/
def Obligations.IoBufferWriteThenRead : Prop :=
  (∀ (s : State) (ch n : Nat) (w : Word) (rest : List Event), s.memoryLegal → s.rst = false → s.ioBusy = false →
    ch < s.params.nch → n < 2048 →
    let off := 0x10000 + 4 * (2048 * ch + n)
    s.inputs = .access (.write off 4 w) :: .access (.read off 4) :: rest →
    ∃ t, step s = .next t ∧
      (∀ c m, c < 8 → (t.ioMem c).read m = if c = ch ∧ m = n then some w else (s.ioMem c).read m) ∧
      { t with io := s.io } = { s with inputs := .access (.read off 4) :: rest,
                                       resp := some { data := 0#32, err := false } } ∧
      step t = .next { t with inputs := rest, resp := some { data := w, err := false } }) ∧
  (∀ (s : State) (ch n : Nat) (rest : List Event), s.rst = false → s.ioBusy = false → ch < s.params.nch → n < 2048 →
    s.inputs = .access (.read (0x10000 + 4 * (2048 * ch + n)) 4) :: rest →
    (∀ w, (s.ioMem ch).read n = some w →
      step s = .next { s with inputs := rest, resp := some { data := w, err := false } }) ∧
    ((s.ioMem ch).read n = none →
      step s = .next { s with inputs := rest, resp := some { data := Config.freeWord s.freeCount, err := false },
                              freeCount := s.freeCount + 1 })) ∧
  (∀ (s : State) (ch n : Nat) (w : Word) (rest : List Event), s.rst = false → s.params.nch ≤ ch → ch < 8 → n < 2048 →
    let off := 0x10000 + 4 * (2048 * ch + n)
    (s.inputs = .access (.read off 4) :: rest ∨ s.inputs = .access (.write off 4 w) :: rest) →
    step s = .next { s with inputs := rest, resp := some { data := 0#32, err := false } })

/-- R66: an access that is not 4 bytes or not aligned changes nothing but to record error 9 with OP = 0xFF; it returns 0 and the response
signals an error. This holds at every address (log 15); the response field is the model's own (log 9). -/
def Obligations.MalformedAccessErrsOnly : Prop :=
  ∀ (s : State) (addr size : Nat) (w : Word) (rest : List Event), s.rst = false → (size ≠ 4 ∨ addr % 4 ≠ 0) →
    (s.inputs = .access (.read addr size) :: rest ∨ s.inputs = .access (.write addr size w) :: rest) →
    step s = .next { s with
      inputs := rest
      sticky := s.sticky ||| 0x00002000#32
      errinfo := if s.errinfo.toNat % 256 = 0 then 0x0000FF09#32 else s.errinfo
      resp := some { data := 0#32, err := true } }

/-- R92: a write to CMD enqueues the word with ARG0 and ARG1 as they stand, whatever the word; on a full FIFO the word is dropped and
error 6 is recorded with its fields. Nothing else changes. The response field is the model's own (log 9). -/
def Obligations.CmdWriteEnqueues : Prop :=
  ∀ (s : State) (w : Word) (rest : List Event), s.rst = false → s.inputs = .access (.write 0x010 4 w) :: rest →
    (s.fifo.length < s.params.qdepth →
      step s = .next { s with
        inputs := rest
        fifo := s.fifo ++ [{ word := w, a0 := s.arg0, a1 := s.arg1 }]
        resp := some { data := 0#32, err := false } }) ∧
    (s.params.qdepth ≤ s.fifo.length →
      step s = .next { s with
        inputs := rest
        sticky := s.sticky ||| 0x00000800#32
        errinfo := if s.errinfo.toNat % 256 = 0 then w32 (6 + 256 * (w.toNat % 256) + 65536 * (w.toNat / 256 % 16) +
          1048576 * (w.toNat / 4096 % 16)) else s.errinfo
        resp := some { data := 0#32, err := false } })

/-- R97: one write to QTRANSPO[v] or QWINDOW is the enqueue of SET_TRANSPO v or SET_WINDOW with the written word as its operand, ARG0 and
ARG1 unchanged; a full FIFO drops it with error 6; a slot the instance lacks ignores it. The response field is the model's own (log 9). -/
def Obligations.SingleWriteFormsEnqueue : Prop :=
  ∀ (s : State) (w : Word) (rest : List Event), s.rst = false →
    let enq := fun (word : Nat) (op v : Nat) =>
      if s.fifo.length < s.params.qdepth then
        { s with inputs := rest, fifo := s.fifo ++ [{ word := w32 word, a0 := w, a1 := 0#32 }],
                 resp := some { data := 0#32, err := false } }
      else
        { s with inputs := rest, sticky := s.sticky ||| 0x00000800#32,
                 errinfo := if s.errinfo.toNat % 256 = 0 then w32 (6 + 256 * op + 65536 * v) else s.errinfo,
                 resp := some { data := 0#32, err := false } }
    (∀ v, v < 4 → s.inputs = .access (.write (0x0A0 + 4 * v) 4 w) :: rest →
      step s = .next (if v < s.params.nvoice then enq (0x00000002 + 256 * v) 2 v
        else { s with inputs := rest, resp := some { data := 0#32, err := false } })) ∧
    (s.inputs = .access (.write 0x0B0 4 w) :: rest → step s = .next (enq 0x00000003 3 0))

/-- R22, R24, R25, R67: what a word write to STATUS, ERRINFO, IRQEN, ARG0 or ARG1 does, and that one to a read-only register or to a
reserved offset does nothing. The response field is the model's own (log 9). -/
def Obligations.RegisterWrites : Prop :=
  ∀ (s : State) (off : Nat) (w : Word) (rest : List Event), s.rst = false → off % 4 = 0 → off < 0x10000 →
    s.inputs = .access (.write off 4 w) :: rest →
    let done := { s with inputs := rest, resp := some { data := 0#32, err := false } }
    (off = 0x004 → step s = .next { done with sticky := s.sticky &&& ~~~(w &&& 0x00007F30#32) }) ∧
    (off = 0x008 → step s = .next { done with errinfo := 0#32 }) ∧
    (off = 0x00C → step s = .next { done with irqen := w &&& 0x00007F30#32 }) ∧
    (off = 0x014 → step s = .next { done with arg0 := w }) ∧
    (off = 0x018 → step s = .next { done with arg1 := w }) ∧
    (off ∉ [0x004, 0x008, 0x00C, 0x010, 0x014, 0x018, 0x0A0, 0x0A4, 0x0A8, 0x0AC, 0x0B0] → step s = .next done)

/-- R67, R69: a legal host read changes nothing but the response and the model's count of free values (log 8), unless it is an I/O buffer
read in conflict, which also records error 8. -/
def Obligations.HostReadsHaveNoEffect : Prop :=
  ∀ (s : State) (off : Nat) (rest : List Event), s.rst = false → off % 4 = 0 → off < 0x20000 →
    s.inputs = .access (.read off 4) :: rest →
    ∃ t, step s = .next t ∧
      (off < 0x10000 ∨ s.ioBusy = false →
        { t with resp := s.resp, freeCount := s.freeCount } = { s with inputs := rest }) ∧
      { t with resp := s.resp, freeCount := s.freeCount, sticky := s.sticky, errinfo := s.errinfo } =
        { s with inputs := rest }

/-- R69, spec/93 U5: while PROCESS or RB_WRITE is in flight, an access to an I/O cell of a channel the instance has records error 8; a
write is ignored, and a read returns the next free value, of which nothing is known. Log 7, 8, 9. -/
def Obligations.IoConflictRecorded : Prop :=
  ∀ (s : State) (ch n : Nat) (w : Word) (rest : List Event), s.rst = false → ch < s.params.nch → n < 2048 →
    (s.inflightCommand = some .process ∨ s.inflightCommand = some .rbWrite) →
    let off := 0x10000 + 4 * (2048 * ch + n)
    let noted := { s with inputs := rest, sticky := s.sticky ||| 0x00002000#32,
                          errinfo := if s.errinfo.toNat % 256 = 0 then 0x0000FF08#32 else s.errinfo }
    (s.inputs = .access (.write off 4 w) :: rest →
      step s = .next { noted with resp := some { data := 0#32, err := false } }) ∧
    (s.inputs = .access (.read off 4) :: rest →
      step s = .next { noted with resp := some { data := Config.freeWord s.freeCount, err := false },
                                  freeCount := s.freeCount + 1 })

/-- R72, spec/93 U6: while a command is in flight, a read of a register in its write set returns the next free value, of which nothing is
known; every other register reads as its current value, STATUS, ERRINFO, QCOUNT and IRQEN always. The command is the one the word's OP
selects (log 7). -/
def Obligations.WriteSetUnsettledInFlight : Prop :=
  ∀ (s : State) (i : Instr) (off : Nat) (rest : List Event), s.rst = false → s.inflightCommand = some i → off % 4 = 0 →
    off < 0x10000 → s.inputs = .access (.read off 4) :: rest →
    let answer := fun (w : Word) => { s with inputs := rest, resp := some { data := w, err := false } }
    (off ∈ writeSetOffsets s.params i →
      step s = .next { answer (Config.freeWord s.freeCount) with freeCount := s.freeCount + 1 }) ∧
    (off ∉ writeSetOffsets s.params i → step s = .next (answer (s.regValue (targetOf off)))) ∧
    (off = 0x004 → step s = .next (answer s.statusWord)) ∧
    (off = 0x008 → step s = .next (answer s.errinfo)) ∧
    (off = 0x00C → step s = .next (answer s.irqen)) ∧
    (off = 0x048 → step s = .next (answer (w32 (s.fifo.length % 32))))

/-! ## Rules of the whole machine -/

/-- R25: once ERRINFO holds an error no step changes it but a host write to ERRINFO and a reset. -/
def Obligations.FirstErrorIsKept : Prop :=
  ∀ s t : State, step s = .next t → s.errinfo.toNat % 256 ≠ 0 →
    (∀ w rest, s.inputs ≠ .access (.write 0x008 4 w) :: rest) → (∀ rest, s.inputs ≠ .drive true :: rest) →
    t.errinfo = s.errinfo

/-- R23, R259, R260: no step clears a sticky STATUS bit but a host write of 1 to it and a reset. -/
def Obligations.OnlyHostClearsStatus : Prop :=
  ∀ (s t : State) (i : Nat), step s = .next t → s.sticky.getLsbD i = true →
    (∀ w rest, s.inputs = .access (.write 0x004 4 w) :: rest → w.getLsbD i = false) →
    (∀ rest, s.inputs ≠ .drive true :: rest) → t.sticky.getLsbD i = true

/-- R30, R33, R51 (log 1): no step changes the instance's parameters; SR and PREPARED change only by a PREPARE that completes, which sets
PREPARED, and by a reset. -/
def Obligations.OnlyPrepareSetsRate : Prop :=
  ∀ s t : State, step s = .next t →
    t.params = s.params ∧
    (t.sr ≠ s.sr ∨ t.prepared ≠ s.prepared →
      (s.inflightCommand = some .prepare ∧ t.prepared = true) ∨ ∃ rest, s.inputs = .drive true :: rest)

/-! ## Invariants -/

/-- R42, R45, R31, R32 and the model's memory form: the reset state of every instance meets every invariant stated below. -/
def Obligations.ResetMeetsInvariants : Prop :=
  ∀ p : Params, let s := State.resetOf p
    s.memoryLegal ∧ s.controlLegal ∧ s.cursorLegal ∧ s.engineLegal ∧ s.freqDerived ∧ s.windowDerived

/-- Equal memories are equal data (log 12): two canonical memories that read alike are one. -/
def Obligations.CanonicalMemoryIsUnique : Prop :=
  ∀ m m' : Memory, m.wf → m'.wf → (∀ i, m.read i = m'.read i) → m = m'

/-- Every step keeps both memories within their physical sizes (R46, R48, R61, R62), given the cursor's bounds (R45), and in the canonical
form of the model's own choice (log 12). -/
def Obligations.MemoryFormKept : Prop :=
  ∀ s t : State, s.memoryLegal → s.cursorLegal → step s = .next t → t.memoryLegal

/-- R45, and R22, R23, R25, R26: every step keeps CAP and BLKSZ within the physical sizes, WPTR < CAP whenever CAP ≥ 1, and a capacity once
PREPARED; and it keeps the FIFO within QDEPTH and the reserved bits of STATUS, IRQEN and ERRINFO at 0. -/
def Obligations.CursorAndControlKept : Prop :=
  (∀ s t : State, s.cursorLegal → step s = .next t → t.cursorLegal) ∧
  (∀ s t : State, s.controlLegal → step s = .next t → t.controlLegal)

/-- R42 with R30, R31, R32: every step keeps every phase in [0, 1), given with it that frequencies are finite, SR legal, and the window and
the transpositions within their bounds. -/
def Obligations.PhasesStayInUnitInterval : Prop := ∀ s t : State, s.engineLegal → step s = .next t → t.engineLegal

/-- R31, R32: every step keeps FREQ[v] = T2F(TRANSPO[v], WIN_MS), and WIN_SAMP the window at the sample rate once PREPARED. -/
def Obligations.DerivedRegistersFollow : Prop :=
  ∀ s t : State, s.freqDerived → s.windowDerived → step s = .next t → t.freqDerived ∧ t.windowDerived
end

