-- ==== Sys2Proof/Laws/Binary32.lean ====
section
/-! SUPPORT. What the binary32 primitives do, said once: the order of the magnitudes, what rounding keeps, and the value of a packed
word. -/

namespace Sys2Proof.Machine

/-! ## Fields of a word -/

theorem fmag_lt (w : Word) : fmag w < 2 ^ 31 := Nat.mod_lt _ (by norm_num)

@[simp] theorem fmag_fpack (neg : Bool) {m : Nat} (h : m < 2 ^ 31) : fmag (fpack neg m) = m := by
  cases neg <;> simp [fmag, fpack] <;> omega

@[simp] theorem fsign_fpack (neg : Bool) {m : Nat} (h : m < 2 ^ 31) : fsign (fpack neg m) = neg := by
  cases neg <;> simp [fsign, fpack] <;> omega

/-- A word is its sign and its magnitude. -/
theorem fpack_fields (w : Word) : fpack (fsign w) (fmag w) = w := by
  apply BitVec.eq_of_toNat_eq
  have := w.isLt
  simp only [fpack, fsign, fmag, decide_eq_true_eq, BitVec.toNat_ofNat]
  split <;> omega

@[simp] theorem units_fpack (neg : Bool) {m : Nat} (h : m < 2 ^ 31) :
    units (fpack neg m) = if neg then -(magUnits m : Int) else (magUnits m : Int) := by
  rw [units, fsign_fpack neg h, fmag_fpack neg h]

/-! ## Magnitudes -/

theorem magUnits_subnormal {m : Nat} (h : m < 2 ^ 23) : magUnits m = m := if_pos h

theorem magUnits_normal {m : Nat} (h : 2 ^ 23 ≤ m) :
    magUnits m = (2 ^ 23 + m % 2 ^ 23) * 2 ^ (m / 2 ^ 23 - 1) :=
  if_neg (Nat.not_lt.2 h)

/-- The next magnitude is one unit in the last place higher. -/
theorem magUnits_succ (m : Nat) : magUnits (m + 1) = magUnits m + 2 ^ (m / 2 ^ 23 - 1) := by
  rcases Nat.lt_or_ge m (2 ^ 23) with h | h
  · have he : m / 2 ^ 23 = 0 := Nat.div_eq_of_lt h
    rcases Nat.lt_or_ge (m + 1) (2 ^ 23) with h' | h'
    · rw [magUnits_subnormal h, magUnits_subnormal h', he]; rfl
    · obtain rfl : m = 2 ^ 23 - 1 := by omega
      decide
  · obtain ⟨e, f, hf, rfl⟩ : ∃ e f, f < 2 ^ 23 ∧ m = 2 ^ 23 * (e + 1) + f :=
      ⟨m / 2 ^ 23 - 1, m % 2 ^ 23, Nat.mod_lt _ (by norm_num), by omega⟩
    have hm : (2 ^ 23 * (e + 1) + f) / 2 ^ 23 = e + 1 := by omega
    have hr : (2 ^ 23 * (e + 1) + f) % 2 ^ 23 = f := by omega
    rw [magUnits_normal h, magUnits_normal (by omega), hm, hr]
    rcases Nat.lt_or_ge (f + 1) (2 ^ 23) with h' | h'
    · have hm' : (2 ^ 23 * (e + 1) + f + 1) / 2 ^ 23 = e + 1 := by omega
      have hr' : (2 ^ 23 * (e + 1) + f + 1) % 2 ^ 23 = f + 1 := by omega
      rw [hm', hr', Nat.add_sub_cancel]; ring
    · have hm' : (2 ^ 23 * (e + 1) + f + 1) / 2 ^ 23 = e + 2 := by omega
      have hr' : (2 ^ 23 * (e + 1) + f + 1) % 2 ^ 23 = 0 := by omega
      obtain rfl : f = 2 ^ 23 - 1 := by omega
      rw [hm', hr', show e + 2 - 1 = e + 1 from rfl, Nat.add_sub_cancel, pow_succ]; ring

/-- The magnitudes have the order of their encodings. -/
theorem magUnits_strictMono : StrictMono magUnits :=
  strictMono_nat_of_lt_succ fun m => by rw [magUnits_succ]; exact Nat.lt_add_of_pos_right (by positivity)

/-! ## Rounding -/

@[simp] theorem nearestEven_mul (q : Nat) {d : Nat} (hd : 0 < d) : nearestEven (q * d) d = q := by
  simp [nearestEven, Nat.mul_div_cancel _ hd, hd.ne]

/-- Rounding never leaves the encodings up to ∞. -/
theorem rneMag_le (n d : Nat) : rneMag n d ≤ 0x7F800000 := Nat.min_le_right _ _

theorem rneMag_lt (n d : Nat) : rneMag n d < 2 ^ 31 := lt_of_le_of_lt (rneMag_le n d) (by norm_num)

/-- Rounding a value that has an encoding gives that encoding: no operation changes an exact result. -/
theorem rneMag_magUnits {m : Nat} (h : m ≤ 0x7F800000) : rneMag (magUnits m) 1 = m := by
  unfold rneMag
  rw [Nat.div_one]
  rcases Nat.lt_or_ge m (2 ^ 23) with h' | h'
  · rw [magUnits_subnormal h']
    have hs : m.log2 + 1 - 24 = 0 := by
      rcases Nat.eq_zero_or_pos m with rfl | hm
      · decide
      · have := (Nat.log2_lt hm.ne').2 h'
        omega
    have := nearestEven_mul m (d := 1) Nat.one_pos
    simp_all
  · obtain ⟨e, f, hf, rfl⟩ : ∃ e f, f < 2 ^ 23 ∧ m = 2 ^ 23 * (e + 1) + f :=
      ⟨m / 2 ^ 23 - 1, m % 2 ^ 23, Nat.mod_lt _ (by norm_num), by omega⟩
    have hm : (2 ^ 23 * (e + 1) + f) / 2 ^ 23 = e + 1 := by omega
    have hr : (2 ^ 23 * (e + 1) + f) % 2 ^ 23 = f := by omega
    rw [magUnits_normal h', hm, hr, Nat.add_sub_cancel]
    have hlog : ((2 ^ 23 + f) * 2 ^ e).log2 = 23 + e := by
      have hlo : 2 ^ (23 + e) ≤ (2 ^ 23 + f) * 2 ^ e := by
        rw [pow_add]; exact Nat.mul_le_mul_right _ (by omega)
      have hhi : (2 ^ 23 + f) * 2 ^ e < 2 ^ (23 + e + 1) := by
        rw [show 23 + e + 1 = 24 + e by omega, pow_add]
        exact Nat.mul_lt_mul_of_pos_right (by norm_num; omega) (by positivity)
      have hne : (2 ^ 23 + f) * 2 ^ e ≠ 0 := by positivity
      exact (Nat.log2_eq_iff hne).2 ⟨hlo, hhi⟩
    simp only [hlog, show 23 + e + 1 - 24 = e by omega, Nat.one_mul, nearestEven_mul (2 ^ 23 + f) (Nat.two_pow_pos e)]
    omega

/-- Rounding to an integer keeps the order. -/
theorem nearestEven_mono {n n' d : Nat} (h : n ≤ n') : nearestEven n d ≤ nearestEven n' d := by
  have hq : n / d ≤ n' / d := Nat.div_le_div_right h
  unfold nearestEven
  rcases Nat.lt_or_ge (n / d) (n' / d) with hlt | hge
  · simp only; split <;> split <;> omega
  · have he : n / d = n' / d := le_antisymm hq hge
    have hr : n % d ≤ n' % d := by
      have h1 := Nat.div_add_mod n d
      have h2 := Nat.div_add_mod n' d
      rw [he] at h1
      omega
    simp only [he]
    split <;> split <;> simp_all; omega

theorem le_nearestEven (n d : Nat) : n / d ≤ nearestEven n d := by unfold nearestEven; simp only; split <;> omega

theorem nearestEven_le_succ (n d : Nat) : nearestEven n d ≤ n / d + 1 := by unfold nearestEven; simp only; split <;> omega

/-- The significand that rounding takes has at most 24 bits, and exactly 24 above the subnormal range. -/
theorem significand_bounds (n d : Nat) :
    let k := (n / d).log2 + 1 - 24
    n / (d * 2 ^ k) < 2 ^ 24 ∧ (0 < k → 2 ^ 23 ≤ n / (d * 2 ^ k)) := by
  intro k
  rw [← Nat.div_div_eq_div_mul]
  rcases Nat.eq_zero_or_pos (n / d) with h | h
  · have hk : k = 0 := by simp [k, h]
    simp [h, hk]
  · have hlo : 2 ^ (n / d).log2 ≤ n / d := Nat.log2_self_le h.ne'
    have hhi : n / d < 2 ^ ((n / d).log2 + 1) := Nat.lt_log2_self
    refine ⟨Nat.div_lt_of_lt_mul ?_, fun hk => (Nat.le_div_iff_mul_le (Nat.two_pow_pos k)).2 ?_⟩
    · refine lt_of_lt_of_le hhi ?_
      rw [← pow_add]
      exact Nat.pow_le_pow_right (by norm_num) (by omega)
    · rw [← pow_add, show 23 + k = (n / d).log2 by omega]
      exact hlo

/-- Rounding keeps the order. -/
theorem rneMag_mono {n n' : Nat} (d : Nat) (h : n ≤ n') : rneMag n d ≤ rneMag n' d := by
  unfold rneMag
  simp only
  refine min_le_min_right _ ?_
  have hlog : (n / d).log2 ≤ (n' / d).log2 := by
    rcases Nat.eq_zero_or_pos (n / d) with h0 | h0
    · simp [h0]
    · have hle : n / d ≤ n' / d := Nat.div_le_div_right h
      exact (Nat.le_log2 (by omega)).2 (le_trans (Nat.log2_self_le h0.ne') hle)
  obtain ⟨hn, -⟩ := significand_bounds n d
  obtain ⟨-, hn'⟩ := significand_bounds n' d
  have hle : (n / d).log2 + 1 - 24 ≤ (n' / d).log2 + 1 - 24 := by omega
  generalize (n / d).log2 + 1 - 24 = k at *
  generalize (n' / d).log2 + 1 - 24 = k' at *
  rcases Nat.eq_or_lt_of_le hle with rfl | hlt
  · exact Nat.add_le_add_left (nearestEven_mono h) _
  · have h1 := nearestEven_le_succ n (d * 2 ^ k)
    have h2 := le_nearestEven n' (d * 2 ^ k')
    have h3 := hn' (by omega)
    omega

end Sys2Proof.Machine
end

