-- ==== Sys2Proof/Laws/Memory.lean ====
section
/-! SUPPORT. The laws of one channel's memory: every operation keeps the canonical form, and what a cell reads as after each. -/

namespace Sys2Proof.Machine.Memory

/-! ## Looking up, listing and unlisting -/

theorem lookup_cons (k j : Nat) (y : Word) (r : List (Nat × Word)) :
    lookup k ((j, y) :: r) = if k = j then some y else lookup k r := rfl

theorem read_eq (m : Memory) (k : Nat) :
    m.read k = (lookup k m.cells).or (if k < m.filled then some 0#32 else none) := rfl

theorem read_mk (f : Nat) (cs : List (Nat × Word)) (k : Nat) :
    read { filled := f, cells := cs } k = (lookup k cs).or (if k < f then some 0#32 else none) := rfl

theorem lookup_insertCell (i k : Nat) (x : Word) (cs : List (Nat × Word)) :
    lookup k (insertCell i x cs) = if k = i then some x else lookup k cs := by
  induction cs with
  | nil => rfl
  | cons c r ih =>
    obtain ⟨j, y⟩ := c
    by_cases h1 : i < j
    · rw [insertCell, if_pos h1, lookup_cons]
    · by_cases h2 : i = j
      · subst h2
        rw [insertCell, if_neg h1, if_pos rfl, lookup_cons, lookup_cons]
        by_cases h : k = i <;> simp [h]
      · rw [insertCell, if_neg h1, if_neg h2, lookup_cons, lookup_cons, ih]
        by_cases h : k = j
        · simp [h, show j ≠ i from fun e => h2 e.symm]
        · simp [h]

theorem lookup_filter (p : Nat → Bool) (k : Nat) (cs : List (Nat × Word)) :
    lookup k (cs.filter fun c => p c.1) = if p k then lookup k cs else none := by
  induction cs with
  | nil => simp [lookup]
  | cons c r ih =>
    obtain ⟨j, y⟩ := c
    by_cases hj : p j <;> by_cases hk : k = j
    · subst hk; simp [lookup, hj]
    · simp [lookup, hj, hk, ih]
    · subst hk; simp [hj, ih]
    · simp [lookup, hj, hk, ih]

theorem lookup_eraseCell (i k : Nat) (cs : List (Nat × Word)) :
    lookup k (eraseCell i cs) = if k = i then none else lookup k cs := by
  unfold eraseCell
  rw [lookup_filter (fun j => j != i)]
  by_cases h : k = i <;> simp [h]

theorem lookup_eq_none_of_forall_ne {k : Nat} {cs : List (Nat × Word)} (h : ∀ c ∈ cs, c.1 ≠ k) : lookup k cs = none := by
  induction cs with
  | nil => rfl
  | cons c r ih =>
    obtain ⟨j, y⟩ := c
    have hj : k ≠ j := fun e => h (j, y) (by simp) e.symm
    simp [lookup, hj, ih fun c hc => h c (by simp [hc])]

theorem lookup_mem {k : Nat} {x : Word} {cs : List (Nat × Word)} (h : lookup k cs = some x) : (k, x) ∈ cs := by
  induction cs with
  | nil => simp [lookup] at h
  | cons c r ih =>
    obtain ⟨j, y⟩ := c
    simp only [lookup] at h
    split_ifs at h with hk
    · subst hk; simp_all
    · exact List.mem_cons_of_mem _ (ih h)

theorem mem_insertCell {i : Nat} {x : Word} {cs : List (Nat × Word)} {c : Nat × Word} (h : c ∈ insertCell i x cs) :
    c = (i, x) ∨ c ∈ cs := by
  induction cs with
  | nil => simpa [insertCell] using h
  | cons d r ih =>
    obtain ⟨j, y⟩ := d
    simp only [insertCell] at h
    split_ifs at h with h1 h2
    · simpa using h
    · rcases List.mem_cons.1 h with h | h
      · exact .inl h
      · exact .inr (List.mem_cons_of_mem _ h)
    · rcases List.mem_cons.1 h with h | h
      · exact .inr (by simp [h])
      · exact (ih h).imp id (List.mem_cons_of_mem _)

/-- Listed indices strictly rise. -/
abbrev Sorted (cs : List (Nat × Word)) : Prop := cs.Pairwise fun a b => a.1 < b.1

theorem sorted_insertCell {i : Nat} {x : Word} {cs : List (Nat × Word)} (h : Sorted cs) : Sorted (insertCell i x cs) := by
  induction cs with
  | nil => simp [insertCell, Sorted]
  | cons d r ih =>
    obtain ⟨j, y⟩ := d
    obtain ⟨hj, hr⟩ := List.pairwise_cons.1 h
    simp only [insertCell]
    split_ifs with h1 h2
    · refine List.pairwise_cons.2 ⟨fun c hc => ?_, h⟩
      rcases List.mem_cons.1 hc with rfl | hc
      · exact h1
      · exact lt_trans h1 (hj c hc)
    · subst h2; exact List.pairwise_cons.2 ⟨hj, hr⟩
    · refine List.pairwise_cons.2 ⟨fun c hc => ?_, ih hr⟩
      rcases mem_insertCell hc with rfl | hc
      · exact lt_of_le_of_ne (not_lt.1 h1) (Ne.symm h2)
      · exact hj c hc

theorem sorted_filter {p : Nat × Word → Bool} {cs : List (Nat × Word)} (h : Sorted cs) : Sorted (cs.filter p) :=
  h.sublist List.filter_sublist

/-! ## absorb -/

@[simp] theorem consCell_filled (c : Nat × Word) (m : Memory) : (consCell c m).filled = m.filled := rfl

@[simp] theorem consCell_cells (c : Nat × Word) (m : Memory) : (consCell c m).cells = c :: m.cells := rfl

theorem absorb_cells_mem {f : Nat} {cs : List (Nat × Word)} {c : Nat × Word} (h : c ∈ (absorb f cs).cells) : c ∈ cs := by
  induction cs generalizing f with
  | nil => simp [absorb] at h
  | cons d r ih =>
    obtain ⟨j, y⟩ := d
    simp only [absorb] at h
    split_ifs at h with h1 h2 h3
    · rcases List.mem_cons.1 h with h | h
      · simp [h]
      · exact List.mem_cons_of_mem _ (ih h)
    · exact List.mem_cons_of_mem _ (ih h)
    · rcases List.mem_cons.1 h with h | h
      · simp [h]
      · exact List.mem_cons_of_mem _ (ih h)
    · exact h

theorem le_absorb_filled (f : Nat) (cs : List (Nat × Word)) : f ≤ (absorb f cs).filled := by
  induction cs generalizing f with
  | nil => simp [absorb]
  | cons d r ih =>
    obtain ⟨j, y⟩ := d
    simp only [absorb]
    split_ifs
    · exact ih f
    · exact le_trans (Nat.le_succ f) (ih (f + 1))
    · exact le_trans (Nat.le_succ f) (ih (f + 1))
    · exact le_refl f

theorem absorb_filled_le {f n : Nat} {cs : List (Nat × Word)} (hf : f ≤ n) (h : ∀ c ∈ cs, c.1 < n) :
    (absorb f cs).filled ≤ n := by
  induction cs generalizing f with
  | nil => simpa [absorb] using hf
  | cons d r ih =>
    obtain ⟨j, y⟩ := d
    have hj : j < n := h (j, y) (by simp)
    have hr : ∀ c ∈ r, c.1 < n := fun c hc => h c (by simp [hc])
    simp only [absorb]
    split_ifs
    · exact ih hf hr
    · exact ih (by omega) hr
    · exact ih (by omega) hr
    · exact hf

theorem absorb_wf {f : Nat} {cs : List (Nat × Word)} (hs : Sorted cs) (h0 : ∀ c ∈ cs, c.1 < f → c.2 ≠ 0#32) :
    (absorb f cs).wf := by
  induction cs generalizing f with
  | nil => simp [absorb, wf]
  | cons d r ih =>
    obtain ⟨j, y⟩ := d
    obtain ⟨hj, hr⟩ := List.pairwise_cons.1 hs
    simp only [absorb]
    split_ifs with h1 h2 h3
    · have ihr := ih (f := f) hr fun c hc => h0 c (by simp [hc])
      refine ⟨List.pairwise_cons.2 ⟨fun c hc => hj c (absorb_cells_mem hc), ihr.1⟩, fun c hc => ?_⟩
      rcases List.mem_cons.1 hc with rfl | hc
      · have := le_absorb_filled f r
        exact ⟨by simp only [consCell_filled]; omega, fun _ => h0 (j, y) (by simp) h1⟩
      · exact ihr.2 c hc
    · exact ih hr fun c hc hlt => absurd (hj c hc) (by simp only; omega)
    · have ihr := ih (f := f + 1) hr fun c hc hlt => absurd (hj c hc) (by simp only; omega)
      refine ⟨List.pairwise_cons.2 ⟨fun c hc => hj c (absorb_cells_mem hc), ihr.1⟩, fun c hc => ?_⟩
      rcases List.mem_cons.1 hc with rfl | hc
      · have := le_absorb_filled (f + 1) r
        exact ⟨by simp only [consCell_filled]; omega, fun _ => h3⟩
      · exact ihr.2 c hc
    · refine ⟨hs, fun c hc => ?_⟩
      have : f < c.1 := by
        rcases List.mem_cons.1 hc with rfl | hc
        · simp only; omega
        · have := hj c hc; simp only at this; omega
      exact ⟨by simp only; omega, fun hlt => absurd hlt (by simp only; omega)⟩

theorem read_consCell (c : Nat × Word) (m : Memory) (k : Nat) :
    (consCell c m).read k = if k = c.1 then some c.2 else m.read k := by
  obtain ⟨j, y⟩ := c
  rw [read_eq, read_eq, consCell_cells, consCell_filled, lookup_cons]
  by_cases h : k = j <;> simp [h]

theorem read_absorb {f : Nat} {cs : List (Nat × Word)} (hs : Sorted cs) (k : Nat) :
    (absorb f cs).read k = (lookup k cs).or (if k < f then some 0#32 else none) := by
  induction cs generalizing f with
  | nil => rfl
  | cons d r ih =>
    obtain ⟨j, y⟩ := d
    obtain ⟨hj, hr⟩ := List.pairwise_cons.1 hs
    have hnone : lookup j r = none :=
      lookup_eq_none_of_forall_ne fun c hc => by have := hj c hc; simp only at this; omega
    rw [lookup_cons]
    by_cases h1 : j < f
    · rw [absorb, if_pos h1, read_consCell, ih hr]
      by_cases hk : k = j <;> simp [hk]
    · by_cases h2 : j = f
      · subst h2
        by_cases h3 : y = 0#32
        · rw [absorb, if_neg h1, if_pos rfl, if_pos h3, ih hr]
          by_cases hk : k = j
          · subst hk; simp [hnone, h3]
          · have : (k < j + 1) = (k < j) := by simp only [eq_iff_iff]; omega
            simp [hk, this]
        · rw [absorb, if_neg h1, if_pos rfl, if_neg h3, read_consCell, ih hr]
          by_cases hk : k = j
          · simp [hk]
          · have : (k < j + 1) = (k < j) := by simp only [eq_iff_iff]; omega
            simp [hk, this]
      · rw [absorb, if_neg h1, if_neg h2, read_mk, lookup_cons]

/-! ## write and fillZero -/

theorem write_wf {m : Memory} (h : m.wf) (i : Nat) (x : Word) : (m.write i x).wf := by
  obtain ⟨hs, hc⟩ := h
  unfold write
  split_ifs with h1 h2
  · exact ⟨sorted_filter hs, fun c hm => hc c (List.mem_filter.1 hm).1⟩
  · refine ⟨sorted_insertCell hs, fun c hm => ?_⟩
    rcases mem_insertCell hm with rfl | hm
    · exact ⟨by simp only; omega, fun _ => h2⟩
    · exact hc c hm
  · refine absorb_wf (sorted_insertCell hs) fun c hm hlt => ?_
    rcases mem_insertCell hm with rfl | hm
    · exact absurd hlt h1
    · exact (hc c hm).2 hlt

theorem read_write {m : Memory} (h : m.wf) (i : Nat) (x : Word) (k : Nat) :
    (m.write i x).read k = if k = i then some x else m.read k := by
  unfold write
  by_cases h1 : i < m.filled
  · rw [if_pos h1]
    by_cases h2 : x = 0#32
    · rw [if_pos h2, read_mk, lookup_eraseCell, read_eq]
      by_cases h3 : k = i
      · subst h3; simp [h1, h2]
      · simp [h3]
    · rw [if_neg h2, read_mk, lookup_insertCell, read_eq]
      by_cases h3 : k = i <;> simp [h3]
  · rw [if_neg h1, read_absorb (sorted_insertCell h.1), lookup_insertCell, read_eq]
    by_cases h3 : k = i <;> simp [h3]

theorem write_below {m : Memory} {n i : Nat} (h : m.below n) (hi : i < n) (x : Word) : (m.write i x).below n := by
  obtain ⟨hf, hc⟩ := h
  have hins : ∀ c ∈ insertCell i x m.cells, c.1 < n := fun c hm => by
    rcases mem_insertCell hm with rfl | hm
    · exact hi
    · exact hc c hm
  unfold write
  split_ifs with h1 h2
  · exact ⟨hf, fun c hm => hc c (List.mem_filter.1 hm).1⟩
  · exact ⟨hf, hins⟩
  · exact ⟨absorb_filled_le hf hins, fun c hm => hins c (absorb_cells_mem hm)⟩

theorem fillZero_wf {m : Memory} (h : m.wf) (n : Nat) : (m.fillZero n).wf := by
  obtain ⟨hs, hc⟩ := h
  unfold fillZero
  simp only
  split_ifs with h1
  · exact ⟨sorted_filter hs, fun c hm => hc c (List.mem_filter.1 hm).1⟩
  · refine absorb_wf (sorted_filter hs) fun c hm hlt => ?_
    have := (List.mem_filter.1 hm).2
    simp only [decide_eq_true_eq] at this
    omega

theorem read_fillZero {m : Memory} (h : m.wf) (n k : Nat) :
    (m.fillZero n).read k = if k < n then some 0#32 else m.read k := by
  unfold fillZero
  simp only
  have hl : lookup k (m.cells.filter fun c => decide (n ≤ c.1)) = if k < n then none else lookup k m.cells := by
    rw [lookup_filter (fun j => decide (n ≤ j))]
    by_cases hk : k < n
    · simp [hk, show ¬ n ≤ k by omega]
    · simp [hk, show n ≤ k by omega]
  by_cases h1 : n ≤ m.filled
  · rw [if_pos h1, read_mk, hl, read_eq]
    by_cases hk : k < n
    · simp [hk, show k < m.filled by omega]
    · simp [hk]
  · rw [if_neg h1, read_absorb (sorted_filter h.1), hl, read_eq]
    by_cases hk : k < n
    · simp [hk]
    · simp [hk, show ¬ k < m.filled by omega]

theorem fillZero_below {m : Memory} {n c : Nat} (h : m.below n) (hc : c ≤ n) : (m.fillZero c).below n := by
  obtain ⟨hf, hm⟩ := h
  have habove : ∀ d ∈ m.cells.filter (fun d => decide (c ≤ d.1)), d.1 < n := fun d hd => hm d (List.mem_filter.1 hd).1
  unfold fillZero
  simp only
  split_ifs
  · exact ⟨hf, habove⟩
  · exact ⟨absorb_filled_le hc habove, fun d hd => habove d (absorb_cells_mem hd)⟩

theorem undefined_wf : undefined.wf := by simp [undefined, wf]

theorem undefined_below (n : Nat) : undefined.below n := by simp [undefined, below]

@[simp] theorem read_undefined (k : Nat) : undefined.read k = none := by simp [undefined, read, lookup, unlisted]

theorem read_eq_none_of_below {m : Memory} {n k : Nat} (h : m.below n) (hk : n ≤ k) : m.read k = none := by
  have h1 : lookup k m.cells = none := lookup_eq_none_of_forall_ne fun c hc => by have := h.2 c hc; omega
  have h2 : ¬ k < m.filled := by have := h.1; omega
  rw [read_eq, h1, if_neg h2]
  rfl

end Sys2Proof.Machine.Memory
end

