-- ==== Sys2Proof/Laws/State.lean ====
section
/-! SUPPORT. One lemma for each field of State and each named update of it: what the field is after the update. True by unfolding the
update once; no later proof unfolds a record update. -/

namespace Sys2Proof.Machine.State

/-! ### setSticky -/

@[simp] theorem setSticky_params (m : Word) (s : State) : (s.setSticky m).params = s.params := rfl
@[simp] theorem setSticky_sticky (m : Word) (s : State) : (s.setSticky m).sticky = (s.sticky ||| m) := rfl
@[simp] theorem setSticky_prepared (m : Word) (s : State) : (s.setSticky m).prepared = s.prepared := rfl
@[simp] theorem setSticky_errinfo (m : Word) (s : State) : (s.setSticky m).errinfo = s.errinfo := rfl
@[simp] theorem setSticky_irqen (m : Word) (s : State) : (s.setSticky m).irqen = s.irqen := rfl
@[simp] theorem setSticky_arg0 (m : Word) (s : State) : (s.setSticky m).arg0 = s.arg0 := rfl
@[simp] theorem setSticky_arg1 (m : Word) (s : State) : (s.setSticky m).arg1 = s.arg1 := rfl
@[simp] theorem setSticky_result (m : Word) (s : State) : (s.setSticky m).result = s.result := rfl
@[simp] theorem setSticky_blkcnt (m : Word) (s : State) : (s.setSticky m).blkcnt = s.blkcnt := rfl
@[simp] theorem setSticky_sr (m : Word) (s : State) : (s.setSticky m).sr = s.sr := rfl
@[simp] theorem setSticky_blksz (m : Word) (s : State) : (s.setSticky m).blksz = s.blksz := rfl
@[simp] theorem setSticky_cap (m : Word) (s : State) : (s.setSticky m).cap = s.cap := rfl
@[simp] theorem setSticky_wptr (m : Word) (s : State) : (s.setSticky m).wptr = s.wptr := rfl
@[simp] theorem setSticky_winMs (m : Word) (s : State) : (s.setSticky m).winMs = s.winMs := rfl
@[simp] theorem setSticky_winSamp (m : Word) (s : State) : (s.setSticky m).winSamp = s.winSamp := rfl
@[simp] theorem setSticky_voices (m : Word) (s : State) : (s.setSticky m).voices = s.voices := rfl
@[simp] theorem setSticky_oscs (m : Word) (s : State) : (s.setSticky m).oscs = s.oscs := rfl
@[simp] theorem setSticky_fifo (m : Word) (s : State) : (s.setSticky m).fifo = s.fifo := rfl
@[simp] theorem setSticky_inflight (m : Word) (s : State) : (s.setSticky m).inflight = s.inflight := rfl
@[simp] theorem setSticky_ring (m : Word) (s : State) : (s.setSticky m).ring = s.ring := rfl
@[simp] theorem setSticky_io (m : Word) (s : State) : (s.setSticky m).io = s.io := rfl
@[simp] theorem setSticky_rst (m : Word) (s : State) : (s.setSticky m).rst = s.rst := rfl
@[simp] theorem setSticky_inputs (m : Word) (s : State) : (s.setSticky m).inputs = s.inputs := rfl
@[simp] theorem setSticky_resp (m : Word) (s : State) : (s.setSticky m).resp = s.resp := rfl
@[simp] theorem setSticky_freeCount (m : Word) (s : State) : (s.setSticky m).freeCount = s.freeCount := rfl

/-! ### recordError -/

@[simp] theorem recordError_params (c : ErrCode) (src : ErrSource) (s : State) : (s.recordError c src).params = s.params := rfl
@[simp] theorem recordError_sticky (c : ErrCode) (src : ErrSource) (s : State) : (s.recordError c src).sticky = (s.sticky ||| errBit c) := rfl
@[simp] theorem recordError_prepared (c : ErrCode) (src : ErrSource) (s : State) : (s.recordError c src).prepared = s.prepared := rfl
@[simp] theorem recordError_errinfo (c : ErrCode) (src : ErrSource) (s : State) : (s.recordError c src).errinfo = (if errCodeOf s.errinfo = 0 then errWord c src else s.errinfo) := rfl
@[simp] theorem recordError_irqen (c : ErrCode) (src : ErrSource) (s : State) : (s.recordError c src).irqen = s.irqen := rfl
@[simp] theorem recordError_arg0 (c : ErrCode) (src : ErrSource) (s : State) : (s.recordError c src).arg0 = s.arg0 := rfl
@[simp] theorem recordError_arg1 (c : ErrCode) (src : ErrSource) (s : State) : (s.recordError c src).arg1 = s.arg1 := rfl
@[simp] theorem recordError_result (c : ErrCode) (src : ErrSource) (s : State) : (s.recordError c src).result = s.result := rfl
@[simp] theorem recordError_blkcnt (c : ErrCode) (src : ErrSource) (s : State) : (s.recordError c src).blkcnt = s.blkcnt := rfl
@[simp] theorem recordError_sr (c : ErrCode) (src : ErrSource) (s : State) : (s.recordError c src).sr = s.sr := rfl
@[simp] theorem recordError_blksz (c : ErrCode) (src : ErrSource) (s : State) : (s.recordError c src).blksz = s.blksz := rfl
@[simp] theorem recordError_cap (c : ErrCode) (src : ErrSource) (s : State) : (s.recordError c src).cap = s.cap := rfl
@[simp] theorem recordError_wptr (c : ErrCode) (src : ErrSource) (s : State) : (s.recordError c src).wptr = s.wptr := rfl
@[simp] theorem recordError_winMs (c : ErrCode) (src : ErrSource) (s : State) : (s.recordError c src).winMs = s.winMs := rfl
@[simp] theorem recordError_winSamp (c : ErrCode) (src : ErrSource) (s : State) : (s.recordError c src).winSamp = s.winSamp := rfl
@[simp] theorem recordError_voices (c : ErrCode) (src : ErrSource) (s : State) : (s.recordError c src).voices = s.voices := rfl
@[simp] theorem recordError_oscs (c : ErrCode) (src : ErrSource) (s : State) : (s.recordError c src).oscs = s.oscs := rfl
@[simp] theorem recordError_fifo (c : ErrCode) (src : ErrSource) (s : State) : (s.recordError c src).fifo = s.fifo := rfl
@[simp] theorem recordError_inflight (c : ErrCode) (src : ErrSource) (s : State) : (s.recordError c src).inflight = s.inflight := rfl
@[simp] theorem recordError_ring (c : ErrCode) (src : ErrSource) (s : State) : (s.recordError c src).ring = s.ring := rfl
@[simp] theorem recordError_io (c : ErrCode) (src : ErrSource) (s : State) : (s.recordError c src).io = s.io := rfl
@[simp] theorem recordError_rst (c : ErrCode) (src : ErrSource) (s : State) : (s.recordError c src).rst = s.rst := rfl
@[simp] theorem recordError_inputs (c : ErrCode) (src : ErrSource) (s : State) : (s.recordError c src).inputs = s.inputs := rfl
@[simp] theorem recordError_resp (c : ErrCode) (src : ErrSource) (s : State) : (s.recordError c src).resp = s.resp := rfl
@[simp] theorem recordError_freeCount (c : ErrCode) (src : ErrSource) (s : State) : (s.recordError c src).freeCount = s.freeCount := rfl

/-! ### clearSticky -/

@[simp] theorem clearSticky_params (w : Word) (s : State) : (s.clearSticky w).params = s.params := rfl
@[simp] theorem clearSticky_sticky (w : Word) (s : State) : (s.clearSticky w).sticky = (s.sticky &&& ~~~(w &&& w1cMask)) := rfl
@[simp] theorem clearSticky_prepared (w : Word) (s : State) : (s.clearSticky w).prepared = s.prepared := rfl
@[simp] theorem clearSticky_errinfo (w : Word) (s : State) : (s.clearSticky w).errinfo = s.errinfo := rfl
@[simp] theorem clearSticky_irqen (w : Word) (s : State) : (s.clearSticky w).irqen = s.irqen := rfl
@[simp] theorem clearSticky_arg0 (w : Word) (s : State) : (s.clearSticky w).arg0 = s.arg0 := rfl
@[simp] theorem clearSticky_arg1 (w : Word) (s : State) : (s.clearSticky w).arg1 = s.arg1 := rfl
@[simp] theorem clearSticky_result (w : Word) (s : State) : (s.clearSticky w).result = s.result := rfl
@[simp] theorem clearSticky_blkcnt (w : Word) (s : State) : (s.clearSticky w).blkcnt = s.blkcnt := rfl
@[simp] theorem clearSticky_sr (w : Word) (s : State) : (s.clearSticky w).sr = s.sr := rfl
@[simp] theorem clearSticky_blksz (w : Word) (s : State) : (s.clearSticky w).blksz = s.blksz := rfl
@[simp] theorem clearSticky_cap (w : Word) (s : State) : (s.clearSticky w).cap = s.cap := rfl
@[simp] theorem clearSticky_wptr (w : Word) (s : State) : (s.clearSticky w).wptr = s.wptr := rfl
@[simp] theorem clearSticky_winMs (w : Word) (s : State) : (s.clearSticky w).winMs = s.winMs := rfl
@[simp] theorem clearSticky_winSamp (w : Word) (s : State) : (s.clearSticky w).winSamp = s.winSamp := rfl
@[simp] theorem clearSticky_voices (w : Word) (s : State) : (s.clearSticky w).voices = s.voices := rfl
@[simp] theorem clearSticky_oscs (w : Word) (s : State) : (s.clearSticky w).oscs = s.oscs := rfl
@[simp] theorem clearSticky_fifo (w : Word) (s : State) : (s.clearSticky w).fifo = s.fifo := rfl
@[simp] theorem clearSticky_inflight (w : Word) (s : State) : (s.clearSticky w).inflight = s.inflight := rfl
@[simp] theorem clearSticky_ring (w : Word) (s : State) : (s.clearSticky w).ring = s.ring := rfl
@[simp] theorem clearSticky_io (w : Word) (s : State) : (s.clearSticky w).io = s.io := rfl
@[simp] theorem clearSticky_rst (w : Word) (s : State) : (s.clearSticky w).rst = s.rst := rfl
@[simp] theorem clearSticky_inputs (w : Word) (s : State) : (s.clearSticky w).inputs = s.inputs := rfl
@[simp] theorem clearSticky_resp (w : Word) (s : State) : (s.clearSticky w).resp = s.resp := rfl
@[simp] theorem clearSticky_freeCount (w : Word) (s : State) : (s.clearSticky w).freeCount = s.freeCount := rfl

/-! ### clearErrinfo -/

@[simp] theorem clearErrinfo_params (s : State) : (s.clearErrinfo).params = s.params := rfl
@[simp] theorem clearErrinfo_sticky (s : State) : (s.clearErrinfo).sticky = s.sticky := rfl
@[simp] theorem clearErrinfo_prepared (s : State) : (s.clearErrinfo).prepared = s.prepared := rfl
@[simp] theorem clearErrinfo_errinfo (s : State) : (s.clearErrinfo).errinfo = (0#32) := rfl
@[simp] theorem clearErrinfo_irqen (s : State) : (s.clearErrinfo).irqen = s.irqen := rfl
@[simp] theorem clearErrinfo_arg0 (s : State) : (s.clearErrinfo).arg0 = s.arg0 := rfl
@[simp] theorem clearErrinfo_arg1 (s : State) : (s.clearErrinfo).arg1 = s.arg1 := rfl
@[simp] theorem clearErrinfo_result (s : State) : (s.clearErrinfo).result = s.result := rfl
@[simp] theorem clearErrinfo_blkcnt (s : State) : (s.clearErrinfo).blkcnt = s.blkcnt := rfl
@[simp] theorem clearErrinfo_sr (s : State) : (s.clearErrinfo).sr = s.sr := rfl
@[simp] theorem clearErrinfo_blksz (s : State) : (s.clearErrinfo).blksz = s.blksz := rfl
@[simp] theorem clearErrinfo_cap (s : State) : (s.clearErrinfo).cap = s.cap := rfl
@[simp] theorem clearErrinfo_wptr (s : State) : (s.clearErrinfo).wptr = s.wptr := rfl
@[simp] theorem clearErrinfo_winMs (s : State) : (s.clearErrinfo).winMs = s.winMs := rfl
@[simp] theorem clearErrinfo_winSamp (s : State) : (s.clearErrinfo).winSamp = s.winSamp := rfl
@[simp] theorem clearErrinfo_voices (s : State) : (s.clearErrinfo).voices = s.voices := rfl
@[simp] theorem clearErrinfo_oscs (s : State) : (s.clearErrinfo).oscs = s.oscs := rfl
@[simp] theorem clearErrinfo_fifo (s : State) : (s.clearErrinfo).fifo = s.fifo := rfl
@[simp] theorem clearErrinfo_inflight (s : State) : (s.clearErrinfo).inflight = s.inflight := rfl
@[simp] theorem clearErrinfo_ring (s : State) : (s.clearErrinfo).ring = s.ring := rfl
@[simp] theorem clearErrinfo_io (s : State) : (s.clearErrinfo).io = s.io := rfl
@[simp] theorem clearErrinfo_rst (s : State) : (s.clearErrinfo).rst = s.rst := rfl
@[simp] theorem clearErrinfo_inputs (s : State) : (s.clearErrinfo).inputs = s.inputs := rfl
@[simp] theorem clearErrinfo_resp (s : State) : (s.clearErrinfo).resp = s.resp := rfl
@[simp] theorem clearErrinfo_freeCount (s : State) : (s.clearErrinfo).freeCount = s.freeCount := rfl

/-! ### setIrqen -/

@[simp] theorem setIrqen_params (w : Word) (s : State) : (s.setIrqen w).params = s.params := rfl
@[simp] theorem setIrqen_sticky (w : Word) (s : State) : (s.setIrqen w).sticky = s.sticky := rfl
@[simp] theorem setIrqen_prepared (w : Word) (s : State) : (s.setIrqen w).prepared = s.prepared := rfl
@[simp] theorem setIrqen_errinfo (w : Word) (s : State) : (s.setIrqen w).errinfo = s.errinfo := rfl
@[simp] theorem setIrqen_irqen (w : Word) (s : State) : (s.setIrqen w).irqen = (w &&& w1cMask) := rfl
@[simp] theorem setIrqen_arg0 (w : Word) (s : State) : (s.setIrqen w).arg0 = s.arg0 := rfl
@[simp] theorem setIrqen_arg1 (w : Word) (s : State) : (s.setIrqen w).arg1 = s.arg1 := rfl
@[simp] theorem setIrqen_result (w : Word) (s : State) : (s.setIrqen w).result = s.result := rfl
@[simp] theorem setIrqen_blkcnt (w : Word) (s : State) : (s.setIrqen w).blkcnt = s.blkcnt := rfl
@[simp] theorem setIrqen_sr (w : Word) (s : State) : (s.setIrqen w).sr = s.sr := rfl
@[simp] theorem setIrqen_blksz (w : Word) (s : State) : (s.setIrqen w).blksz = s.blksz := rfl
@[simp] theorem setIrqen_cap (w : Word) (s : State) : (s.setIrqen w).cap = s.cap := rfl
@[simp] theorem setIrqen_wptr (w : Word) (s : State) : (s.setIrqen w).wptr = s.wptr := rfl
@[simp] theorem setIrqen_winMs (w : Word) (s : State) : (s.setIrqen w).winMs = s.winMs := rfl
@[simp] theorem setIrqen_winSamp (w : Word) (s : State) : (s.setIrqen w).winSamp = s.winSamp := rfl
@[simp] theorem setIrqen_voices (w : Word) (s : State) : (s.setIrqen w).voices = s.voices := rfl
@[simp] theorem setIrqen_oscs (w : Word) (s : State) : (s.setIrqen w).oscs = s.oscs := rfl
@[simp] theorem setIrqen_fifo (w : Word) (s : State) : (s.setIrqen w).fifo = s.fifo := rfl
@[simp] theorem setIrqen_inflight (w : Word) (s : State) : (s.setIrqen w).inflight = s.inflight := rfl
@[simp] theorem setIrqen_ring (w : Word) (s : State) : (s.setIrqen w).ring = s.ring := rfl
@[simp] theorem setIrqen_io (w : Word) (s : State) : (s.setIrqen w).io = s.io := rfl
@[simp] theorem setIrqen_rst (w : Word) (s : State) : (s.setIrqen w).rst = s.rst := rfl
@[simp] theorem setIrqen_inputs (w : Word) (s : State) : (s.setIrqen w).inputs = s.inputs := rfl
@[simp] theorem setIrqen_resp (w : Word) (s : State) : (s.setIrqen w).resp = s.resp := rfl
@[simp] theorem setIrqen_freeCount (w : Word) (s : State) : (s.setIrqen w).freeCount = s.freeCount := rfl

/-! ### ringWrite -/

@[simp] theorem ringWrite_params (ch i : Nat) (x : Word) (s : State) : (s.ringWrite ch i x).params = s.params := rfl
@[simp] theorem ringWrite_sticky (ch i : Nat) (x : Word) (s : State) : (s.ringWrite ch i x).sticky = s.sticky := rfl
@[simp] theorem ringWrite_prepared (ch i : Nat) (x : Word) (s : State) : (s.ringWrite ch i x).prepared = s.prepared := rfl
@[simp] theorem ringWrite_errinfo (ch i : Nat) (x : Word) (s : State) : (s.ringWrite ch i x).errinfo = s.errinfo := rfl
@[simp] theorem ringWrite_irqen (ch i : Nat) (x : Word) (s : State) : (s.ringWrite ch i x).irqen = s.irqen := rfl
@[simp] theorem ringWrite_arg0 (ch i : Nat) (x : Word) (s : State) : (s.ringWrite ch i x).arg0 = s.arg0 := rfl
@[simp] theorem ringWrite_arg1 (ch i : Nat) (x : Word) (s : State) : (s.ringWrite ch i x).arg1 = s.arg1 := rfl
@[simp] theorem ringWrite_result (ch i : Nat) (x : Word) (s : State) : (s.ringWrite ch i x).result = s.result := rfl
@[simp] theorem ringWrite_blkcnt (ch i : Nat) (x : Word) (s : State) : (s.ringWrite ch i x).blkcnt = s.blkcnt := rfl
@[simp] theorem ringWrite_sr (ch i : Nat) (x : Word) (s : State) : (s.ringWrite ch i x).sr = s.sr := rfl
@[simp] theorem ringWrite_blksz (ch i : Nat) (x : Word) (s : State) : (s.ringWrite ch i x).blksz = s.blksz := rfl
@[simp] theorem ringWrite_cap (ch i : Nat) (x : Word) (s : State) : (s.ringWrite ch i x).cap = s.cap := rfl
@[simp] theorem ringWrite_wptr (ch i : Nat) (x : Word) (s : State) : (s.ringWrite ch i x).wptr = s.wptr := rfl
@[simp] theorem ringWrite_winMs (ch i : Nat) (x : Word) (s : State) : (s.ringWrite ch i x).winMs = s.winMs := rfl
@[simp] theorem ringWrite_winSamp (ch i : Nat) (x : Word) (s : State) : (s.ringWrite ch i x).winSamp = s.winSamp := rfl
@[simp] theorem ringWrite_voices (ch i : Nat) (x : Word) (s : State) : (s.ringWrite ch i x).voices = s.voices := rfl
@[simp] theorem ringWrite_oscs (ch i : Nat) (x : Word) (s : State) : (s.ringWrite ch i x).oscs = s.oscs := rfl
@[simp] theorem ringWrite_fifo (ch i : Nat) (x : Word) (s : State) : (s.ringWrite ch i x).fifo = s.fifo := rfl
@[simp] theorem ringWrite_inflight (ch i : Nat) (x : Word) (s : State) : (s.ringWrite ch i x).inflight = s.inflight := rfl
@[simp] theorem ringWrite_ring (ch i : Nat) (x : Word) (s : State) : (s.ringWrite ch i x).ring = (s.ring.setIfInBounds ch ((s.ringMem ch).write i x)) := rfl
@[simp] theorem ringWrite_io (ch i : Nat) (x : Word) (s : State) : (s.ringWrite ch i x).io = s.io := rfl
@[simp] theorem ringWrite_rst (ch i : Nat) (x : Word) (s : State) : (s.ringWrite ch i x).rst = s.rst := rfl
@[simp] theorem ringWrite_inputs (ch i : Nat) (x : Word) (s : State) : (s.ringWrite ch i x).inputs = s.inputs := rfl
@[simp] theorem ringWrite_resp (ch i : Nat) (x : Word) (s : State) : (s.ringWrite ch i x).resp = s.resp := rfl
@[simp] theorem ringWrite_freeCount (ch i : Nat) (x : Word) (s : State) : (s.ringWrite ch i x).freeCount = s.freeCount := rfl

/-! ### ringFillZero -/

@[simp] theorem ringFillZero_params (ch n : Nat) (s : State) : (s.ringFillZero ch n).params = s.params := rfl
@[simp] theorem ringFillZero_sticky (ch n : Nat) (s : State) : (s.ringFillZero ch n).sticky = s.sticky := rfl
@[simp] theorem ringFillZero_prepared (ch n : Nat) (s : State) : (s.ringFillZero ch n).prepared = s.prepared := rfl
@[simp] theorem ringFillZero_errinfo (ch n : Nat) (s : State) : (s.ringFillZero ch n).errinfo = s.errinfo := rfl
@[simp] theorem ringFillZero_irqen (ch n : Nat) (s : State) : (s.ringFillZero ch n).irqen = s.irqen := rfl
@[simp] theorem ringFillZero_arg0 (ch n : Nat) (s : State) : (s.ringFillZero ch n).arg0 = s.arg0 := rfl
@[simp] theorem ringFillZero_arg1 (ch n : Nat) (s : State) : (s.ringFillZero ch n).arg1 = s.arg1 := rfl
@[simp] theorem ringFillZero_result (ch n : Nat) (s : State) : (s.ringFillZero ch n).result = s.result := rfl
@[simp] theorem ringFillZero_blkcnt (ch n : Nat) (s : State) : (s.ringFillZero ch n).blkcnt = s.blkcnt := rfl
@[simp] theorem ringFillZero_sr (ch n : Nat) (s : State) : (s.ringFillZero ch n).sr = s.sr := rfl
@[simp] theorem ringFillZero_blksz (ch n : Nat) (s : State) : (s.ringFillZero ch n).blksz = s.blksz := rfl
@[simp] theorem ringFillZero_cap (ch n : Nat) (s : State) : (s.ringFillZero ch n).cap = s.cap := rfl
@[simp] theorem ringFillZero_wptr (ch n : Nat) (s : State) : (s.ringFillZero ch n).wptr = s.wptr := rfl
@[simp] theorem ringFillZero_winMs (ch n : Nat) (s : State) : (s.ringFillZero ch n).winMs = s.winMs := rfl
@[simp] theorem ringFillZero_winSamp (ch n : Nat) (s : State) : (s.ringFillZero ch n).winSamp = s.winSamp := rfl
@[simp] theorem ringFillZero_voices (ch n : Nat) (s : State) : (s.ringFillZero ch n).voices = s.voices := rfl
@[simp] theorem ringFillZero_oscs (ch n : Nat) (s : State) : (s.ringFillZero ch n).oscs = s.oscs := rfl
@[simp] theorem ringFillZero_fifo (ch n : Nat) (s : State) : (s.ringFillZero ch n).fifo = s.fifo := rfl
@[simp] theorem ringFillZero_inflight (ch n : Nat) (s : State) : (s.ringFillZero ch n).inflight = s.inflight := rfl
@[simp] theorem ringFillZero_ring (ch n : Nat) (s : State) : (s.ringFillZero ch n).ring = (s.ring.setIfInBounds ch ((s.ringMem ch).fillZero n)) := rfl
@[simp] theorem ringFillZero_io (ch n : Nat) (s : State) : (s.ringFillZero ch n).io = s.io := rfl
@[simp] theorem ringFillZero_rst (ch n : Nat) (s : State) : (s.ringFillZero ch n).rst = s.rst := rfl
@[simp] theorem ringFillZero_inputs (ch n : Nat) (s : State) : (s.ringFillZero ch n).inputs = s.inputs := rfl
@[simp] theorem ringFillZero_resp (ch n : Nat) (s : State) : (s.ringFillZero ch n).resp = s.resp := rfl
@[simp] theorem ringFillZero_freeCount (ch n : Nat) (s : State) : (s.ringFillZero ch n).freeCount = s.freeCount := rfl

/-! ### ioWrite -/

@[simp] theorem ioWrite_params (ch n : Nat) (x : Word) (s : State) : (s.ioWrite ch n x).params = s.params := rfl
@[simp] theorem ioWrite_sticky (ch n : Nat) (x : Word) (s : State) : (s.ioWrite ch n x).sticky = s.sticky := rfl
@[simp] theorem ioWrite_prepared (ch n : Nat) (x : Word) (s : State) : (s.ioWrite ch n x).prepared = s.prepared := rfl
@[simp] theorem ioWrite_errinfo (ch n : Nat) (x : Word) (s : State) : (s.ioWrite ch n x).errinfo = s.errinfo := rfl
@[simp] theorem ioWrite_irqen (ch n : Nat) (x : Word) (s : State) : (s.ioWrite ch n x).irqen = s.irqen := rfl
@[simp] theorem ioWrite_arg0 (ch n : Nat) (x : Word) (s : State) : (s.ioWrite ch n x).arg0 = s.arg0 := rfl
@[simp] theorem ioWrite_arg1 (ch n : Nat) (x : Word) (s : State) : (s.ioWrite ch n x).arg1 = s.arg1 := rfl
@[simp] theorem ioWrite_result (ch n : Nat) (x : Word) (s : State) : (s.ioWrite ch n x).result = s.result := rfl
@[simp] theorem ioWrite_blkcnt (ch n : Nat) (x : Word) (s : State) : (s.ioWrite ch n x).blkcnt = s.blkcnt := rfl
@[simp] theorem ioWrite_sr (ch n : Nat) (x : Word) (s : State) : (s.ioWrite ch n x).sr = s.sr := rfl
@[simp] theorem ioWrite_blksz (ch n : Nat) (x : Word) (s : State) : (s.ioWrite ch n x).blksz = s.blksz := rfl
@[simp] theorem ioWrite_cap (ch n : Nat) (x : Word) (s : State) : (s.ioWrite ch n x).cap = s.cap := rfl
@[simp] theorem ioWrite_wptr (ch n : Nat) (x : Word) (s : State) : (s.ioWrite ch n x).wptr = s.wptr := rfl
@[simp] theorem ioWrite_winMs (ch n : Nat) (x : Word) (s : State) : (s.ioWrite ch n x).winMs = s.winMs := rfl
@[simp] theorem ioWrite_winSamp (ch n : Nat) (x : Word) (s : State) : (s.ioWrite ch n x).winSamp = s.winSamp := rfl
@[simp] theorem ioWrite_voices (ch n : Nat) (x : Word) (s : State) : (s.ioWrite ch n x).voices = s.voices := rfl
@[simp] theorem ioWrite_oscs (ch n : Nat) (x : Word) (s : State) : (s.ioWrite ch n x).oscs = s.oscs := rfl
@[simp] theorem ioWrite_fifo (ch n : Nat) (x : Word) (s : State) : (s.ioWrite ch n x).fifo = s.fifo := rfl
@[simp] theorem ioWrite_inflight (ch n : Nat) (x : Word) (s : State) : (s.ioWrite ch n x).inflight = s.inflight := rfl
@[simp] theorem ioWrite_ring (ch n : Nat) (x : Word) (s : State) : (s.ioWrite ch n x).ring = s.ring := rfl
@[simp] theorem ioWrite_io (ch n : Nat) (x : Word) (s : State) : (s.ioWrite ch n x).io = (s.io.setIfInBounds ch ((s.ioMem ch).write n x)) := rfl
@[simp] theorem ioWrite_rst (ch n : Nat) (x : Word) (s : State) : (s.ioWrite ch n x).rst = s.rst := rfl
@[simp] theorem ioWrite_inputs (ch n : Nat) (x : Word) (s : State) : (s.ioWrite ch n x).inputs = s.inputs := rfl
@[simp] theorem ioWrite_resp (ch n : Nat) (x : Word) (s : State) : (s.ioWrite ch n x).resp = s.resp := rfl
@[simp] theorem ioWrite_freeCount (ch n : Nat) (x : Word) (s : State) : (s.ioWrite ch n x).freeCount = s.freeCount := rfl

/-! ### setOsc -/

@[simp] theorem setOsc_params (v ch : Nat) (o : Osc) (s : State) : (s.setOsc v ch o).params = s.params := rfl
@[simp] theorem setOsc_sticky (v ch : Nat) (o : Osc) (s : State) : (s.setOsc v ch o).sticky = s.sticky := rfl
@[simp] theorem setOsc_prepared (v ch : Nat) (o : Osc) (s : State) : (s.setOsc v ch o).prepared = s.prepared := rfl
@[simp] theorem setOsc_errinfo (v ch : Nat) (o : Osc) (s : State) : (s.setOsc v ch o).errinfo = s.errinfo := rfl
@[simp] theorem setOsc_irqen (v ch : Nat) (o : Osc) (s : State) : (s.setOsc v ch o).irqen = s.irqen := rfl
@[simp] theorem setOsc_arg0 (v ch : Nat) (o : Osc) (s : State) : (s.setOsc v ch o).arg0 = s.arg0 := rfl
@[simp] theorem setOsc_arg1 (v ch : Nat) (o : Osc) (s : State) : (s.setOsc v ch o).arg1 = s.arg1 := rfl
@[simp] theorem setOsc_result (v ch : Nat) (o : Osc) (s : State) : (s.setOsc v ch o).result = s.result := rfl
@[simp] theorem setOsc_blkcnt (v ch : Nat) (o : Osc) (s : State) : (s.setOsc v ch o).blkcnt = s.blkcnt := rfl
@[simp] theorem setOsc_sr (v ch : Nat) (o : Osc) (s : State) : (s.setOsc v ch o).sr = s.sr := rfl
@[simp] theorem setOsc_blksz (v ch : Nat) (o : Osc) (s : State) : (s.setOsc v ch o).blksz = s.blksz := rfl
@[simp] theorem setOsc_cap (v ch : Nat) (o : Osc) (s : State) : (s.setOsc v ch o).cap = s.cap := rfl
@[simp] theorem setOsc_wptr (v ch : Nat) (o : Osc) (s : State) : (s.setOsc v ch o).wptr = s.wptr := rfl
@[simp] theorem setOsc_winMs (v ch : Nat) (o : Osc) (s : State) : (s.setOsc v ch o).winMs = s.winMs := rfl
@[simp] theorem setOsc_winSamp (v ch : Nat) (o : Osc) (s : State) : (s.setOsc v ch o).winSamp = s.winSamp := rfl
@[simp] theorem setOsc_voices (v ch : Nat) (o : Osc) (s : State) : (s.setOsc v ch o).voices = s.voices := rfl
@[simp] theorem setOsc_oscs (v ch : Nat) (o : Osc) (s : State) : (s.setOsc v ch o).oscs = (s.oscs.setIfInBounds (oscIndex v ch) o) := rfl
@[simp] theorem setOsc_fifo (v ch : Nat) (o : Osc) (s : State) : (s.setOsc v ch o).fifo = s.fifo := rfl
@[simp] theorem setOsc_inflight (v ch : Nat) (o : Osc) (s : State) : (s.setOsc v ch o).inflight = s.inflight := rfl
@[simp] theorem setOsc_ring (v ch : Nat) (o : Osc) (s : State) : (s.setOsc v ch o).ring = s.ring := rfl
@[simp] theorem setOsc_io (v ch : Nat) (o : Osc) (s : State) : (s.setOsc v ch o).io = s.io := rfl
@[simp] theorem setOsc_rst (v ch : Nat) (o : Osc) (s : State) : (s.setOsc v ch o).rst = s.rst := rfl
@[simp] theorem setOsc_inputs (v ch : Nat) (o : Osc) (s : State) : (s.setOsc v ch o).inputs = s.inputs := rfl
@[simp] theorem setOsc_resp (v ch : Nat) (o : Osc) (s : State) : (s.setOsc v ch o).resp = s.resp := rfl
@[simp] theorem setOsc_freeCount (v ch : Nat) (o : Osc) (s : State) : (s.setOsc v ch o).freeCount = s.freeCount := rfl

/-! ### setVoice -/

@[simp] theorem setVoice_params (v : Nat) (x : Voice) (s : State) : (s.setVoice v x).params = s.params := rfl
@[simp] theorem setVoice_sticky (v : Nat) (x : Voice) (s : State) : (s.setVoice v x).sticky = s.sticky := rfl
@[simp] theorem setVoice_prepared (v : Nat) (x : Voice) (s : State) : (s.setVoice v x).prepared = s.prepared := rfl
@[simp] theorem setVoice_errinfo (v : Nat) (x : Voice) (s : State) : (s.setVoice v x).errinfo = s.errinfo := rfl
@[simp] theorem setVoice_irqen (v : Nat) (x : Voice) (s : State) : (s.setVoice v x).irqen = s.irqen := rfl
@[simp] theorem setVoice_arg0 (v : Nat) (x : Voice) (s : State) : (s.setVoice v x).arg0 = s.arg0 := rfl
@[simp] theorem setVoice_arg1 (v : Nat) (x : Voice) (s : State) : (s.setVoice v x).arg1 = s.arg1 := rfl
@[simp] theorem setVoice_result (v : Nat) (x : Voice) (s : State) : (s.setVoice v x).result = s.result := rfl
@[simp] theorem setVoice_blkcnt (v : Nat) (x : Voice) (s : State) : (s.setVoice v x).blkcnt = s.blkcnt := rfl
@[simp] theorem setVoice_sr (v : Nat) (x : Voice) (s : State) : (s.setVoice v x).sr = s.sr := rfl
@[simp] theorem setVoice_blksz (v : Nat) (x : Voice) (s : State) : (s.setVoice v x).blksz = s.blksz := rfl
@[simp] theorem setVoice_cap (v : Nat) (x : Voice) (s : State) : (s.setVoice v x).cap = s.cap := rfl
@[simp] theorem setVoice_wptr (v : Nat) (x : Voice) (s : State) : (s.setVoice v x).wptr = s.wptr := rfl
@[simp] theorem setVoice_winMs (v : Nat) (x : Voice) (s : State) : (s.setVoice v x).winMs = s.winMs := rfl
@[simp] theorem setVoice_winSamp (v : Nat) (x : Voice) (s : State) : (s.setVoice v x).winSamp = s.winSamp := rfl
@[simp] theorem setVoice_voices (v : Nat) (x : Voice) (s : State) : (s.setVoice v x).voices = (s.voices.setIfInBounds v x) := rfl
@[simp] theorem setVoice_oscs (v : Nat) (x : Voice) (s : State) : (s.setVoice v x).oscs = s.oscs := rfl
@[simp] theorem setVoice_fifo (v : Nat) (x : Voice) (s : State) : (s.setVoice v x).fifo = s.fifo := rfl
@[simp] theorem setVoice_inflight (v : Nat) (x : Voice) (s : State) : (s.setVoice v x).inflight = s.inflight := rfl
@[simp] theorem setVoice_ring (v : Nat) (x : Voice) (s : State) : (s.setVoice v x).ring = s.ring := rfl
@[simp] theorem setVoice_io (v : Nat) (x : Voice) (s : State) : (s.setVoice v x).io = s.io := rfl
@[simp] theorem setVoice_rst (v : Nat) (x : Voice) (s : State) : (s.setVoice v x).rst = s.rst := rfl
@[simp] theorem setVoice_inputs (v : Nat) (x : Voice) (s : State) : (s.setVoice v x).inputs = s.inputs := rfl
@[simp] theorem setVoice_resp (v : Nat) (x : Voice) (s : State) : (s.setVoice v x).resp = s.resp := rfl
@[simp] theorem setVoice_freeCount (v : Nat) (x : Voice) (s : State) : (s.setVoice v x).freeCount = s.freeCount := rfl

/-! ### setResult -/

@[simp] theorem setResult_params (x : Word) (s : State) : (s.setResult x).params = s.params := rfl
@[simp] theorem setResult_sticky (x : Word) (s : State) : (s.setResult x).sticky = s.sticky := rfl
@[simp] theorem setResult_prepared (x : Word) (s : State) : (s.setResult x).prepared = s.prepared := rfl
@[simp] theorem setResult_errinfo (x : Word) (s : State) : (s.setResult x).errinfo = s.errinfo := rfl
@[simp] theorem setResult_irqen (x : Word) (s : State) : (s.setResult x).irqen = s.irqen := rfl
@[simp] theorem setResult_arg0 (x : Word) (s : State) : (s.setResult x).arg0 = s.arg0 := rfl
@[simp] theorem setResult_arg1 (x : Word) (s : State) : (s.setResult x).arg1 = s.arg1 := rfl
@[simp] theorem setResult_result (x : Word) (s : State) : (s.setResult x).result = (x) := rfl
@[simp] theorem setResult_blkcnt (x : Word) (s : State) : (s.setResult x).blkcnt = s.blkcnt := rfl
@[simp] theorem setResult_sr (x : Word) (s : State) : (s.setResult x).sr = s.sr := rfl
@[simp] theorem setResult_blksz (x : Word) (s : State) : (s.setResult x).blksz = s.blksz := rfl
@[simp] theorem setResult_cap (x : Word) (s : State) : (s.setResult x).cap = s.cap := rfl
@[simp] theorem setResult_wptr (x : Word) (s : State) : (s.setResult x).wptr = s.wptr := rfl
@[simp] theorem setResult_winMs (x : Word) (s : State) : (s.setResult x).winMs = s.winMs := rfl
@[simp] theorem setResult_winSamp (x : Word) (s : State) : (s.setResult x).winSamp = s.winSamp := rfl
@[simp] theorem setResult_voices (x : Word) (s : State) : (s.setResult x).voices = s.voices := rfl
@[simp] theorem setResult_oscs (x : Word) (s : State) : (s.setResult x).oscs = s.oscs := rfl
@[simp] theorem setResult_fifo (x : Word) (s : State) : (s.setResult x).fifo = s.fifo := rfl
@[simp] theorem setResult_inflight (x : Word) (s : State) : (s.setResult x).inflight = s.inflight := rfl
@[simp] theorem setResult_ring (x : Word) (s : State) : (s.setResult x).ring = s.ring := rfl
@[simp] theorem setResult_io (x : Word) (s : State) : (s.setResult x).io = s.io := rfl
@[simp] theorem setResult_rst (x : Word) (s : State) : (s.setResult x).rst = s.rst := rfl
@[simp] theorem setResult_inputs (x : Word) (s : State) : (s.setResult x).inputs = s.inputs := rfl
@[simp] theorem setResult_resp (x : Word) (s : State) : (s.setResult x).resp = s.resp := rfl
@[simp] theorem setResult_freeCount (x : Word) (s : State) : (s.setResult x).freeCount = s.freeCount := rfl

/-! ### complete -/

@[simp] theorem complete_params (s : State) : (s.complete).params = s.params := rfl
@[simp] theorem complete_sticky (s : State) : (s.complete).sticky = (s.sticky ||| cmdDoneBit) := rfl
@[simp] theorem complete_prepared (s : State) : (s.complete).prepared = s.prepared := rfl
@[simp] theorem complete_errinfo (s : State) : (s.complete).errinfo = s.errinfo := rfl
@[simp] theorem complete_irqen (s : State) : (s.complete).irqen = s.irqen := rfl
@[simp] theorem complete_arg0 (s : State) : (s.complete).arg0 = s.arg0 := rfl
@[simp] theorem complete_arg1 (s : State) : (s.complete).arg1 = s.arg1 := rfl
@[simp] theorem complete_result (s : State) : (s.complete).result = s.result := rfl
@[simp] theorem complete_blkcnt (s : State) : (s.complete).blkcnt = s.blkcnt := rfl
@[simp] theorem complete_sr (s : State) : (s.complete).sr = s.sr := rfl
@[simp] theorem complete_blksz (s : State) : (s.complete).blksz = s.blksz := rfl
@[simp] theorem complete_cap (s : State) : (s.complete).cap = s.cap := rfl
@[simp] theorem complete_wptr (s : State) : (s.complete).wptr = s.wptr := rfl
@[simp] theorem complete_winMs (s : State) : (s.complete).winMs = s.winMs := rfl
@[simp] theorem complete_winSamp (s : State) : (s.complete).winSamp = s.winSamp := rfl
@[simp] theorem complete_voices (s : State) : (s.complete).voices = s.voices := rfl
@[simp] theorem complete_oscs (s : State) : (s.complete).oscs = s.oscs := rfl
@[simp] theorem complete_fifo (s : State) : (s.complete).fifo = s.fifo := rfl
@[simp] theorem complete_inflight (s : State) : (s.complete).inflight = (none) := rfl
@[simp] theorem complete_ring (s : State) : (s.complete).ring = s.ring := rfl
@[simp] theorem complete_io (s : State) : (s.complete).io = s.io := rfl
@[simp] theorem complete_rst (s : State) : (s.complete).rst = s.rst := rfl
@[simp] theorem complete_inputs (s : State) : (s.complete).inputs = s.inputs := rfl
@[simp] theorem complete_resp (s : State) : (s.complete).resp = s.resp := rfl
@[simp] theorem complete_freeCount (s : State) : (s.complete).freeCount = s.freeCount := rfl

/-! ### respond -/

@[simp] theorem respond_params (x : Word) (b : Bool) (s : State) : (s.respond x b).params = s.params := rfl
@[simp] theorem respond_sticky (x : Word) (b : Bool) (s : State) : (s.respond x b).sticky = s.sticky := rfl
@[simp] theorem respond_prepared (x : Word) (b : Bool) (s : State) : (s.respond x b).prepared = s.prepared := rfl
@[simp] theorem respond_errinfo (x : Word) (b : Bool) (s : State) : (s.respond x b).errinfo = s.errinfo := rfl
@[simp] theorem respond_irqen (x : Word) (b : Bool) (s : State) : (s.respond x b).irqen = s.irqen := rfl
@[simp] theorem respond_arg0 (x : Word) (b : Bool) (s : State) : (s.respond x b).arg0 = s.arg0 := rfl
@[simp] theorem respond_arg1 (x : Word) (b : Bool) (s : State) : (s.respond x b).arg1 = s.arg1 := rfl
@[simp] theorem respond_result (x : Word) (b : Bool) (s : State) : (s.respond x b).result = s.result := rfl
@[simp] theorem respond_blkcnt (x : Word) (b : Bool) (s : State) : (s.respond x b).blkcnt = s.blkcnt := rfl
@[simp] theorem respond_sr (x : Word) (b : Bool) (s : State) : (s.respond x b).sr = s.sr := rfl
@[simp] theorem respond_blksz (x : Word) (b : Bool) (s : State) : (s.respond x b).blksz = s.blksz := rfl
@[simp] theorem respond_cap (x : Word) (b : Bool) (s : State) : (s.respond x b).cap = s.cap := rfl
@[simp] theorem respond_wptr (x : Word) (b : Bool) (s : State) : (s.respond x b).wptr = s.wptr := rfl
@[simp] theorem respond_winMs (x : Word) (b : Bool) (s : State) : (s.respond x b).winMs = s.winMs := rfl
@[simp] theorem respond_winSamp (x : Word) (b : Bool) (s : State) : (s.respond x b).winSamp = s.winSamp := rfl
@[simp] theorem respond_voices (x : Word) (b : Bool) (s : State) : (s.respond x b).voices = s.voices := rfl
@[simp] theorem respond_oscs (x : Word) (b : Bool) (s : State) : (s.respond x b).oscs = s.oscs := rfl
@[simp] theorem respond_fifo (x : Word) (b : Bool) (s : State) : (s.respond x b).fifo = s.fifo := rfl
@[simp] theorem respond_inflight (x : Word) (b : Bool) (s : State) : (s.respond x b).inflight = s.inflight := rfl
@[simp] theorem respond_ring (x : Word) (b : Bool) (s : State) : (s.respond x b).ring = s.ring := rfl
@[simp] theorem respond_io (x : Word) (b : Bool) (s : State) : (s.respond x b).io = s.io := rfl
@[simp] theorem respond_rst (x : Word) (b : Bool) (s : State) : (s.respond x b).rst = s.rst := rfl
@[simp] theorem respond_inputs (x : Word) (b : Bool) (s : State) : (s.respond x b).inputs = s.inputs := rfl
@[simp] theorem respond_resp (x : Word) (b : Bool) (s : State) : (s.respond x b).resp = (some { data := x, err := b }) := rfl
@[simp] theorem respond_freeCount (x : Word) (b : Bool) (s : State) : (s.respond x b).freeCount = s.freeCount := rfl

/-! ### respondFree -/

@[simp] theorem respondFree_params (s : State) : (s.respondFree).params = s.params := rfl
@[simp] theorem respondFree_sticky (s : State) : (s.respondFree).sticky = s.sticky := rfl
@[simp] theorem respondFree_prepared (s : State) : (s.respondFree).prepared = s.prepared := rfl
@[simp] theorem respondFree_errinfo (s : State) : (s.respondFree).errinfo = s.errinfo := rfl
@[simp] theorem respondFree_irqen (s : State) : (s.respondFree).irqen = s.irqen := rfl
@[simp] theorem respondFree_arg0 (s : State) : (s.respondFree).arg0 = s.arg0 := rfl
@[simp] theorem respondFree_arg1 (s : State) : (s.respondFree).arg1 = s.arg1 := rfl
@[simp] theorem respondFree_result (s : State) : (s.respondFree).result = s.result := rfl
@[simp] theorem respondFree_blkcnt (s : State) : (s.respondFree).blkcnt = s.blkcnt := rfl
@[simp] theorem respondFree_sr (s : State) : (s.respondFree).sr = s.sr := rfl
@[simp] theorem respondFree_blksz (s : State) : (s.respondFree).blksz = s.blksz := rfl
@[simp] theorem respondFree_cap (s : State) : (s.respondFree).cap = s.cap := rfl
@[simp] theorem respondFree_wptr (s : State) : (s.respondFree).wptr = s.wptr := rfl
@[simp] theorem respondFree_winMs (s : State) : (s.respondFree).winMs = s.winMs := rfl
@[simp] theorem respondFree_winSamp (s : State) : (s.respondFree).winSamp = s.winSamp := rfl
@[simp] theorem respondFree_voices (s : State) : (s.respondFree).voices = s.voices := rfl
@[simp] theorem respondFree_oscs (s : State) : (s.respondFree).oscs = s.oscs := rfl
@[simp] theorem respondFree_fifo (s : State) : (s.respondFree).fifo = s.fifo := rfl
@[simp] theorem respondFree_inflight (s : State) : (s.respondFree).inflight = s.inflight := rfl
@[simp] theorem respondFree_ring (s : State) : (s.respondFree).ring = s.ring := rfl
@[simp] theorem respondFree_io (s : State) : (s.respondFree).io = s.io := rfl
@[simp] theorem respondFree_rst (s : State) : (s.respondFree).rst = s.rst := rfl
@[simp] theorem respondFree_inputs (s : State) : (s.respondFree).inputs = s.inputs := rfl
@[simp] theorem respondFree_resp (s : State) : (s.respondFree).resp = (some { data := Config.freeWord s.freeCount, err := false }) := rfl
@[simp] theorem respondFree_freeCount (s : State) : (s.respondFree).freeCount = (s.freeCount + 1) := rfl

/-! ### zeroPhase -/

@[simp] theorem zeroPhase_params (v ch : Nat) (s : State) : (s.zeroPhase v ch).params = s.params := rfl
@[simp] theorem zeroPhase_sticky (v ch : Nat) (s : State) : (s.zeroPhase v ch).sticky = s.sticky := rfl
@[simp] theorem zeroPhase_prepared (v ch : Nat) (s : State) : (s.zeroPhase v ch).prepared = s.prepared := rfl
@[simp] theorem zeroPhase_errinfo (v ch : Nat) (s : State) : (s.zeroPhase v ch).errinfo = s.errinfo := rfl
@[simp] theorem zeroPhase_irqen (v ch : Nat) (s : State) : (s.zeroPhase v ch).irqen = s.irqen := rfl
@[simp] theorem zeroPhase_arg0 (v ch : Nat) (s : State) : (s.zeroPhase v ch).arg0 = s.arg0 := rfl
@[simp] theorem zeroPhase_arg1 (v ch : Nat) (s : State) : (s.zeroPhase v ch).arg1 = s.arg1 := rfl
@[simp] theorem zeroPhase_result (v ch : Nat) (s : State) : (s.zeroPhase v ch).result = s.result := rfl
@[simp] theorem zeroPhase_blkcnt (v ch : Nat) (s : State) : (s.zeroPhase v ch).blkcnt = s.blkcnt := rfl
@[simp] theorem zeroPhase_sr (v ch : Nat) (s : State) : (s.zeroPhase v ch).sr = s.sr := rfl
@[simp] theorem zeroPhase_blksz (v ch : Nat) (s : State) : (s.zeroPhase v ch).blksz = s.blksz := rfl
@[simp] theorem zeroPhase_cap (v ch : Nat) (s : State) : (s.zeroPhase v ch).cap = s.cap := rfl
@[simp] theorem zeroPhase_wptr (v ch : Nat) (s : State) : (s.zeroPhase v ch).wptr = s.wptr := rfl
@[simp] theorem zeroPhase_winMs (v ch : Nat) (s : State) : (s.zeroPhase v ch).winMs = s.winMs := rfl
@[simp] theorem zeroPhase_winSamp (v ch : Nat) (s : State) : (s.zeroPhase v ch).winSamp = s.winSamp := rfl
@[simp] theorem zeroPhase_voices (v ch : Nat) (s : State) : (s.zeroPhase v ch).voices = s.voices := rfl
@[simp] theorem zeroPhase_oscs (v ch : Nat) (s : State) : (s.zeroPhase v ch).oscs = (s.oscs.setIfInBounds (oscIndex v ch) { s.osc v ch with phase := 0#32 }) := rfl
@[simp] theorem zeroPhase_fifo (v ch : Nat) (s : State) : (s.zeroPhase v ch).fifo = s.fifo := rfl
@[simp] theorem zeroPhase_inflight (v ch : Nat) (s : State) : (s.zeroPhase v ch).inflight = s.inflight := rfl
@[simp] theorem zeroPhase_ring (v ch : Nat) (s : State) : (s.zeroPhase v ch).ring = s.ring := rfl
@[simp] theorem zeroPhase_io (v ch : Nat) (s : State) : (s.zeroPhase v ch).io = s.io := rfl
@[simp] theorem zeroPhase_rst (v ch : Nat) (s : State) : (s.zeroPhase v ch).rst = s.rst := rfl
@[simp] theorem zeroPhase_inputs (v ch : Nat) (s : State) : (s.zeroPhase v ch).inputs = s.inputs := rfl
@[simp] theorem zeroPhase_resp (v ch : Nat) (s : State) : (s.zeroPhase v ch).resp = s.resp := rfl
@[simp] theorem zeroPhase_freeCount (v ch : Nat) (s : State) : (s.zeroPhase v ch).freeCount = s.freeCount := rfl

/-! ### setOscFreq -/

@[simp] theorem setOscFreq_params (v : Nat) (f : Word) (ch : Nat) (s : State) : (s.setOscFreq v f ch).params = s.params := rfl
@[simp] theorem setOscFreq_sticky (v : Nat) (f : Word) (ch : Nat) (s : State) : (s.setOscFreq v f ch).sticky = s.sticky := rfl
@[simp] theorem setOscFreq_prepared (v : Nat) (f : Word) (ch : Nat) (s : State) : (s.setOscFreq v f ch).prepared = s.prepared := rfl
@[simp] theorem setOscFreq_errinfo (v : Nat) (f : Word) (ch : Nat) (s : State) : (s.setOscFreq v f ch).errinfo = s.errinfo := rfl
@[simp] theorem setOscFreq_irqen (v : Nat) (f : Word) (ch : Nat) (s : State) : (s.setOscFreq v f ch).irqen = s.irqen := rfl
@[simp] theorem setOscFreq_arg0 (v : Nat) (f : Word) (ch : Nat) (s : State) : (s.setOscFreq v f ch).arg0 = s.arg0 := rfl
@[simp] theorem setOscFreq_arg1 (v : Nat) (f : Word) (ch : Nat) (s : State) : (s.setOscFreq v f ch).arg1 = s.arg1 := rfl
@[simp] theorem setOscFreq_result (v : Nat) (f : Word) (ch : Nat) (s : State) : (s.setOscFreq v f ch).result = s.result := rfl
@[simp] theorem setOscFreq_blkcnt (v : Nat) (f : Word) (ch : Nat) (s : State) : (s.setOscFreq v f ch).blkcnt = s.blkcnt := rfl
@[simp] theorem setOscFreq_sr (v : Nat) (f : Word) (ch : Nat) (s : State) : (s.setOscFreq v f ch).sr = s.sr := rfl
@[simp] theorem setOscFreq_blksz (v : Nat) (f : Word) (ch : Nat) (s : State) : (s.setOscFreq v f ch).blksz = s.blksz := rfl
@[simp] theorem setOscFreq_cap (v : Nat) (f : Word) (ch : Nat) (s : State) : (s.setOscFreq v f ch).cap = s.cap := rfl
@[simp] theorem setOscFreq_wptr (v : Nat) (f : Word) (ch : Nat) (s : State) : (s.setOscFreq v f ch).wptr = s.wptr := rfl
@[simp] theorem setOscFreq_winMs (v : Nat) (f : Word) (ch : Nat) (s : State) : (s.setOscFreq v f ch).winMs = s.winMs := rfl
@[simp] theorem setOscFreq_winSamp (v : Nat) (f : Word) (ch : Nat) (s : State) : (s.setOscFreq v f ch).winSamp = s.winSamp := rfl
@[simp] theorem setOscFreq_voices (v : Nat) (f : Word) (ch : Nat) (s : State) : (s.setOscFreq v f ch).voices = s.voices := rfl
@[simp] theorem setOscFreq_oscs (v : Nat) (f : Word) (ch : Nat) (s : State) : (s.setOscFreq v f ch).oscs = (s.oscs.setIfInBounds (oscIndex v ch) { s.osc v ch with freq := f }) := rfl
@[simp] theorem setOscFreq_fifo (v : Nat) (f : Word) (ch : Nat) (s : State) : (s.setOscFreq v f ch).fifo = s.fifo := rfl
@[simp] theorem setOscFreq_inflight (v : Nat) (f : Word) (ch : Nat) (s : State) : (s.setOscFreq v f ch).inflight = s.inflight := rfl
@[simp] theorem setOscFreq_ring (v : Nat) (f : Word) (ch : Nat) (s : State) : (s.setOscFreq v f ch).ring = s.ring := rfl
@[simp] theorem setOscFreq_io (v : Nat) (f : Word) (ch : Nat) (s : State) : (s.setOscFreq v f ch).io = s.io := rfl
@[simp] theorem setOscFreq_rst (v : Nat) (f : Word) (ch : Nat) (s : State) : (s.setOscFreq v f ch).rst = s.rst := rfl
@[simp] theorem setOscFreq_inputs (v : Nat) (f : Word) (ch : Nat) (s : State) : (s.setOscFreq v f ch).inputs = s.inputs := rfl
@[simp] theorem setOscFreq_resp (v : Nat) (f : Word) (ch : Nat) (s : State) : (s.setOscFreq v f ch).resp = s.resp := rfl
@[simp] theorem setOscFreq_freeCount (v : Nat) (f : Word) (ch : Nat) (s : State) : (s.setOscFreq v f ch).freeCount = s.freeCount := rfl

/-! ### oscAdvance -/

@[simp] theorem oscAdvance_params (v ch : Nat) (s : State) : (s.oscAdvance v ch).params = s.params := rfl
@[simp] theorem oscAdvance_sticky (v ch : Nat) (s : State) : (s.oscAdvance v ch).sticky = s.sticky := rfl
@[simp] theorem oscAdvance_prepared (v ch : Nat) (s : State) : (s.oscAdvance v ch).prepared = s.prepared := rfl
@[simp] theorem oscAdvance_errinfo (v ch : Nat) (s : State) : (s.oscAdvance v ch).errinfo = s.errinfo := rfl
@[simp] theorem oscAdvance_irqen (v ch : Nat) (s : State) : (s.oscAdvance v ch).irqen = s.irqen := rfl
@[simp] theorem oscAdvance_arg0 (v ch : Nat) (s : State) : (s.oscAdvance v ch).arg0 = s.arg0 := rfl
@[simp] theorem oscAdvance_arg1 (v ch : Nat) (s : State) : (s.oscAdvance v ch).arg1 = s.arg1 := rfl
@[simp] theorem oscAdvance_result (v ch : Nat) (s : State) : (s.oscAdvance v ch).result = s.result := rfl
@[simp] theorem oscAdvance_blkcnt (v ch : Nat) (s : State) : (s.oscAdvance v ch).blkcnt = s.blkcnt := rfl
@[simp] theorem oscAdvance_sr (v ch : Nat) (s : State) : (s.oscAdvance v ch).sr = s.sr := rfl
@[simp] theorem oscAdvance_blksz (v ch : Nat) (s : State) : (s.oscAdvance v ch).blksz = s.blksz := rfl
@[simp] theorem oscAdvance_cap (v ch : Nat) (s : State) : (s.oscAdvance v ch).cap = s.cap := rfl
@[simp] theorem oscAdvance_wptr (v ch : Nat) (s : State) : (s.oscAdvance v ch).wptr = s.wptr := rfl
@[simp] theorem oscAdvance_winMs (v ch : Nat) (s : State) : (s.oscAdvance v ch).winMs = s.winMs := rfl
@[simp] theorem oscAdvance_winSamp (v ch : Nat) (s : State) : (s.oscAdvance v ch).winSamp = s.winSamp := rfl
@[simp] theorem oscAdvance_voices (v ch : Nat) (s : State) : (s.oscAdvance v ch).voices = s.voices := rfl
@[simp] theorem oscAdvance_oscs (v ch : Nat) (s : State) : (s.oscAdvance v ch).oscs = (s.oscs.setIfInBounds (oscIndex v ch) { s.osc v ch with phase := mod1 (fadd (s.osc v ch).phase (s.oscInc v ch)) }) := rfl
@[simp] theorem oscAdvance_fifo (v ch : Nat) (s : State) : (s.oscAdvance v ch).fifo = s.fifo := rfl
@[simp] theorem oscAdvance_inflight (v ch : Nat) (s : State) : (s.oscAdvance v ch).inflight = s.inflight := rfl
@[simp] theorem oscAdvance_ring (v ch : Nat) (s : State) : (s.oscAdvance v ch).ring = s.ring := rfl
@[simp] theorem oscAdvance_io (v ch : Nat) (s : State) : (s.oscAdvance v ch).io = s.io := rfl
@[simp] theorem oscAdvance_rst (v ch : Nat) (s : State) : (s.oscAdvance v ch).rst = s.rst := rfl
@[simp] theorem oscAdvance_inputs (v ch : Nat) (s : State) : (s.oscAdvance v ch).inputs = s.inputs := rfl
@[simp] theorem oscAdvance_resp (v ch : Nat) (s : State) : (s.oscAdvance v ch).resp = s.resp := rfl
@[simp] theorem oscAdvance_freeCount (v ch : Nat) (s : State) : (s.oscAdvance v ch).freeCount = s.freeCount := rfl

end Sys2Proof.Machine.State
end

