-- ==== Sys2Proof/Laws/Ops.lean ====
section
/-! SUPPORT. What each shared operation can do, said once: the loops, the arrays of registers and memories, and for each composite
operation the fields it may change. -/

namespace Sys2Proof.Machine

/-! ## Loops and sequencing -/

@[simp] theorem loop_zero {σ : Type} (body : Nat → σ → σ) (s : σ) : loop 0 body s = s := rfl

theorem loop_succ {σ : Type} (n : Nat) (body : Nat → σ → σ) (s : σ) : loop (n + 1) body s = body n (loop n body s) := rfl

/-- What holds at the start and is carried on by each round holds at the end. -/
theorem loop_induct {σ : Type} {n : Nat} {body : Nat → σ → σ} {s : σ} (P : Nat → σ → Prop) (h0 : P 0 s)
    (hs : ∀ k t, k < n → P k t → P (k + 1) (body k t)) : P n (loop n body s) := by
  suffices h : ∀ k, k ≤ n → P k (loop k body s) from h n (le_refl n)
  intro k hk
  induction k with
  | zero => exact h0
  | succ k ih => exact hs k _ (by omega) (ih (by omega))

@[simp] theorem loopE_zero {σ : Type} (body : Nat → σ → Except Fault σ) (s : σ) : loopE 0 body s = .ok s := rfl

theorem loopE_succ {σ : Type} (n : Nat) (body : Nat → σ → Except Fault σ) (s : σ) :
    loopE (n + 1) body s = andThen (loopE n body s) (body n) := rfl

@[simp] theorem andThen_ok {α β : Type} (a : α) (k : α → Except Fault β) : andThen (.ok a) k = k a := rfl

@[simp] theorem andThen_error {α β : Type} (f : Fault) (k : α → Except Fault β) : andThen (.error f) k = .error f := rfl

/-- A sequence that succeeds succeeds in both its parts. -/
theorem andThen_eq_ok {α β : Type} {x : Except Fault α} {k : α → Except Fault β} {b : β} :
    andThen x k = .ok b ↔ ∃ a, x = .ok a ∧ k a = .ok b := by
  cases x <;> simp

/-- A sequence faults where its first part does, or where the second does after it. -/
theorem andThen_eq_error {α β : Type} {x : Except Fault α} {k : α → Except Fault β} {f : Fault} :
    andThen x k = .error f ↔ x = .error f ∨ ∃ a, x = .ok a ∧ k a = .error f := by
  cases x <;> simp

/-- What holds at the start and is carried on by each round that succeeds holds at a successful end. -/
theorem loopE_induct {σ : Type} {n : Nat} {body : Nat → σ → Except Fault σ} {s t : σ} (P : Nat → σ → Prop) (h0 : P 0 s)
    (hs : ∀ k u v, k < n → P k u → body k u = .ok v → P (k + 1) v) (h : loopE n body s = .ok t) : P n t := by
  suffices h' : ∀ k, k ≤ n → ∀ u, loopE k body s = .ok u → P k u from h' n (le_refl n) t h
  intro k hk
  induction k with
  | zero => intro u hu; cases hu; exact h0
  | succ k ih =>
    intro u hu
    obtain ⟨v, hv, hu⟩ := andThen_eq_ok.1 (loopE_succ k body s ▸ hu)
    exact hs k v u (by omega) (ih (by omega) v hv) hu

/-- A loop whose every round succeeds, under what the rounds carry on, succeeds. -/
theorem loopE_succeeds {σ : Type} {n : Nat} {body : Nat → σ → Except Fault σ} {s : σ} (P : Nat → σ → Prop) (h0 : P 0 s)
    (hs : ∀ k u, k < n → P k u → ∃ v, body k u = .ok v ∧ P (k + 1) v) : ∃ t, loopE n body s = .ok t ∧ P n t := by
  suffices h : ∀ k, k ≤ n → ∃ t, loopE k body s = .ok t ∧ P k t from h n (le_refl n)
  intro k hk
  induction k with
  | zero => exact ⟨s, rfl, h0⟩
  | succ k ih =>
    obtain ⟨u, hu, hP⟩ := ih (by omega)
    obtain ⟨v, hv, hPv⟩ := hs k u (by omega) hP
    exact ⟨v, by rw [loopE_succ, hu]; exact hv, hPv⟩

theorem finishE_eq_next {x : Except Fault State} {t : State} : finishE x = .next t ↔ ∃ u, x = .ok u ∧ u.complete = t := by
  cases x <;> simp [finishE, finish]

@[simp] theorem finish_eq_next {s t : State} : finish s = .next t ↔ s.complete = t := by simp [finish]

@[simp] theorem raise_eq_next {i : Instr} {c : ErrCode} {s t : State} :
    raise i c s = .next t ↔ s.abort c (sourceOf (encode i)) = t := by simp [raise]

namespace State

/-! ## The arrays -/

/-- What an element of an array reads as after a write. -/
theorem getD_setIfInBounds {α : Type} {n : Nat} (xs : Vector α n) (i j : Nat) (a d : α) :
    (xs.setIfInBounds i a).getD j d = if j = i ∧ j < n then a else xs.getD j d := by
  have hsize : (xs.setIfInBounds i a).toArray.size = n := by simp
  by_cases hj : j < n
  · by_cases h : j = i
    · subst h; simp [Vector.getD, Array.getD, hj]
    · simp [Vector.getD, Array.getD, hj, h, Ne.symm h]
  · simp [Vector.getD, Array.getD, hj]

theorem osc_setOsc (s : State) {v ch : Nat} (hv : v < 4) (hch : ch < 8) (o : Osc) {u c : Nat} (hc : c < 8) :
    (s.setOsc v ch o).osc u c = if u = v ∧ c = ch then o else s.osc u c := by
  unfold osc
  rw [setOsc_oscs, getD_setIfInBounds]
  refine if_congr ?_ rfl rfl
  unfold oscIndex
  omega

theorem voice_setVoice (s : State) {v : Nat} (hv : v < 4) (x : Voice) (u : Nat) :
    (s.setVoice v x).voice u = if u = v then x else s.voice u := by
  unfold voice
  rw [setVoice_voices, getD_setIfInBounds]
  exact if_congr (by omega) rfl rfl

theorem ringMem_ringWrite (s : State) {ch : Nat} (hch : ch < 8) (i : Nat) (x : Word) (c : Nat) :
    (s.ringWrite ch i x).ringMem c = if c = ch then (s.ringMem ch).write i x else s.ringMem c := by
  unfold ringMem
  rw [ringWrite_ring, getD_setIfInBounds]
  exact if_congr (by omega) rfl rfl

theorem ringMem_ringFillZero (s : State) {ch : Nat} (hch : ch < 8) (n : Nat) (c : Nat) :
    (s.ringFillZero ch n).ringMem c = if c = ch then (s.ringMem ch).fillZero n else s.ringMem c := by
  unfold ringMem
  rw [ringFillZero_ring, getD_setIfInBounds]
  exact if_congr (by omega) rfl rfl

theorem ioMem_ioWrite (s : State) {ch : Nat} (hch : ch < 8) (n : Nat) (x : Word) (c : Nat) :
    (s.ioWrite ch n x).ioMem c = if c = ch then (s.ioMem ch).write n x else s.ioMem c := by
  unfold ioMem
  rw [ioWrite_io, getD_setIfInBounds]
  exact if_congr (by omega) rfl rfl

/-! ## Frames of the composite operations: `t` is `s` but for the fields named -/

/-- Aborting changes STATUS, ERRINFO and the in-flight slot (R253). -/
theorem abort_eq (c : ErrCode) (src : ErrSource) (s : State) :
    s.abort c src =
      { s with
        sticky := s.sticky ||| errBit c ||| cmdDoneBit
        errinfo := if errCodeOf s.errinfo = 0 then errWord c src else s.errinfo
        inflight := none } := rfl

/-- Enqueueing changes the FIFO, or records error 6 (R92). -/
theorem enqueue_cases (e : Entry) (s : State) :
    (s.fifo.length < s.params.qdepth ∧ s.enqueue e = { s with fifo := s.fifo ++ [e] }) ∨
      (¬ s.fifo.length < s.params.qdepth ∧ s.enqueue e = s.recordError .queueOverflow (sourceOf e.word)) := by
  unfold enqueue
  by_cases h : s.fifo.length < s.params.qdepth
  · exact .inl ⟨h, if_pos h⟩
  · exact .inr ⟨h, if_neg h⟩

/-- VoiceFreqUpdate changes voices and oscillators only (R211). -/
theorem voiceFreqUpdate_frame (v : Nat) (s : State) :
    s.voiceFreqUpdate v = { s with voices := (s.voiceFreqUpdate v).voices, oscs := (s.voiceFreqUpdate v).oscs } := by
  unfold voiceFreqUpdate
  exact loop_induct (fun _ (t : State) => t = { s with voices := t.voices, oscs := t.oscs }) rfl fun k t _ ht => by
    rw [ht]; rfl

/-- The frequency update of every voice changes voices and oscillators only (R212, R215). -/
theorem allFreqUpdate_frame (s : State) :
    s.allFreqUpdate = { s with voices := s.allFreqUpdate.voices, oscs := s.allFreqUpdate.oscs } := by
  unfold allFreqUpdate
  exact loop_induct (fun _ (t : State) => t = { s with voices := t.voices, oscs := t.oscs }) rfl fun k t _ ht => by
    rw [voiceFreqUpdate_frame, ht]

/-- Clearing the ring changes the ring only (R182, R212). -/
theorem ringClear_frame (n : Nat) (s : State) : s.ringClear n = { s with ring := (s.ringClear n).ring } := by
  unfold ringClear
  exact loop_induct (fun _ (t : State) => t = { s with ring := t.ring }) rfl fun k t _ ht => by rw [ht]; rfl

/-- Zeroing the phases changes oscillators only (R212). -/
theorem zeroPhases_frame (s : State) : s.zeroPhases = { s with oscs := s.zeroPhases.oscs } := by
  unfold zeroPhases
  refine loop_induct (fun _ (t : State) => t = { s with oscs := t.oscs }) rfl fun k t _ ht => ?_
  exact loop_induct (fun _ (u : State) => u = { s with oscs := u.oscs }) ht fun j u _ hu => by rw [hu]; rfl

/-- One channel of RingWriteBlock changes the ring only (R183). -/
theorem ringWriteChannel_frame {ch : Nat} {s t : State} (h : s.ringWriteChannel ch = .ok t) :
    t = { s with ring := t.ring } := by
  refine loopE_induct (fun _ (u : State) => u = { s with ring := u.ring }) rfl (fun k u v _ hu hv => ?_) h
  obtain ⟨x, -, hv⟩ := andThen_eq_ok.1 hv
  cases hv
  rw [hu]; rfl

/-- RingWriteBlock changes the ring and WPTR only, and WPTR as R183 says. -/
theorem ringWriteBlock_frame {s t : State} (h : s.ringWriteBlock = .ok t) :
    t = { s with ring := t.ring, wptr := w32 ((s.wptr.toNat + s.blksz.toNat) % s.cap.toNat) } := by
  obtain ⟨u, hu, ht⟩ := andThen_eq_ok.1 h
  have hfr : u = { s with ring := u.ring } :=
    loopE_induct (fun _ (u : State) => u = { s with ring := u.ring }) rfl
      (fun k u v _ hu hv => by rw [ringWriteChannel_frame hv, hu]) hu
  cases ht
  rw [hfr]

/-- An interpolated read gives a value and leaves the state as it was, or is out of range: +0.0 and error 7 (R187, R188, R254). -/
theorem ringReadInterp_cases {src : ErrSource} {ch : Nat} {n : Int} {d : Word} {s : State} {r : State × Word}
    (h : s.ringReadInterp src ch n d = .ok r) :
    (s.readInRange n d = true ∧ r.1 = s ∧ s.interpolate ch n d = .ok r.2) ∨
      (s.readInRange n d = false ∧ r = (s.recordError .readRange src, 0#32)) := by
  unfold ringReadInterp at h
  by_cases hr : s.readInRange n d = true
  · rw [if_pos hr] at h
    obtain ⟨x, hx, h⟩ := andThen_eq_ok.1 h
    cases h
    exact .inl ⟨hr, rfl, hx⟩
  · rw [if_neg hr] at h
    cases h
    exact .inr ⟨by simpa using hr, rfl⟩

/-- An interpolated read changes at most STATUS and ERRINFO. -/
theorem ringReadInterp_frame {src : ErrSource} {ch : Nat} {n : Int} {d : Word} {s : State} {r : State × Word}
    (h : s.ringReadInterp src ch n d = .ok r) : r.1 = { s with sticky := r.1.sticky, errinfo := r.1.errinfo } := by
  rcases ringReadInterp_cases h with ⟨-, h1, -⟩ | ⟨-, h1⟩
  · rw [h1]
  · rw [h1]; rfl

/-- A voice's tap changes oscillators, STATUS and ERRINFO only (R219). -/
theorem voiceTap_frame {src : ErrSource} {v ch n : Nat} {s : State} {r : State × Word}
    (h : s.voiceTap src v ch n = .ok r) :
    r.1 = { s with oscs := r.1.oscs, sticky := r.1.sticky, errinfo := r.1.errinfo } := by
  unfold voiceTap at h
  obtain ⟨ra, ha, h⟩ := andThen_eq_ok.1 h
  obtain ⟨rb, hb, h⟩ := andThen_eq_ok.1 h
  cases h
  simp only
  rw [ringReadInterp_frame hb, ringReadInterp_frame ha]
  rfl

/-- The samples of the whole block change oscillators, STATUS and ERRINFO only (R220). -/
theorem outBlock_frame {src : ErrSource} {s : State} {r : State × List (List Word)} (h : s.outBlock src = .ok r) :
    r.1 = { s with oscs := r.1.oscs, sticky := r.1.sticky, errinfo := r.1.errinfo } := by
  refine loopE_induct (fun _ x => x.1 = { s with oscs := x.1.oscs, sticky := x.1.sticky, errinfo := x.1.errinfo }) rfl
    (fun ch x y _ hx hy => ?_) h
  obtain ⟨a, ha, hy⟩ := andThen_eq_ok.1 hy
  cases hy
  refine loopE_induct (fun _ x => x.1 = { s with oscs := x.1.oscs, sticky := x.1.sticky, errinfo := x.1.errinfo }) hx
    (fun n x y _ hx hy => ?_) ha
  obtain ⟨b, hb, hy⟩ := andThen_eq_ok.1 hy
  cases hy
  refine loopE_induct (fun _ x => x.1 = { s with oscs := x.1.oscs, sticky := x.1.sticky, errinfo := x.1.errinfo }) hx
    (fun v x y _ hx hy => ?_) hb
  obtain ⟨c, hc, hy⟩ := andThen_eq_ok.1 hy
  cases hy
  simp only
  rw [voiceTap_frame hc, hx]

/-- Writing the outputs changes the I/O buffer only (R220). -/
theorem writeBlock_frame (out : List (List Word)) (s : State) : s.writeBlock out = { s with io := (s.writeBlock out).io } := by
  unfold writeBlock
  refine loop_induct (fun _ (t : State) => t = { s with io := t.io }) rfl fun ch t _ ht => ?_
  unfold writeChannel
  exact loop_induct (fun _ (u : State) => u = { s with io := u.io }) ht fun n u _ hu => by rw [hu]; rfl

/-- A PROCESS that is ready and meets no undefined cell changes these fields only, BLKCNT and WPTR as R220 and R183 say. -/
theorem processBlock_frame {src : ErrSource} {s t : State} (h : s.processBlock src = .ok t) :
    t = { s with
      ring := t.ring, io := t.io, oscs := t.oscs, sticky := t.sticky, errinfo := t.errinfo
      wptr := w32 ((s.wptr.toNat + s.blksz.toNat) % s.cap.toNat)
      blkcnt := w32 (s.blkcnt.toNat + 1) } := by
  obtain ⟨u, hu, h⟩ := andThen_eq_ok.1 h
  obtain ⟨r, hr, h⟩ := andThen_eq_ok.1 h
  cases h
  simp only [setSticky]
  rw [writeBlock_frame, outBlock_frame hr, ringWriteBlock_frame hu]

/-- A host read changes the response and the count of free values, and records error 8 on a conflict (R67, R69). -/
theorem hostRead_frame (off : Nat) (s : State) :
    s.hostRead off = { s with
      resp := (s.hostRead off).resp, freeCount := (s.hostRead off).freeCount
      sticky := (s.hostRead off).sticky, errinfo := (s.hostRead off).errinfo } := by
  unfold hostRead
  split
  · unfold readIobuf
    split_ifs
    · rfl
    · rfl
    · split <;> rfl
  · split_ifs <;> rfl

end State

end Sys2Proof.Machine
end

