-- ==== Sys2Proof/Laws/PerInstr.lean ====
section
/-! SUPPORT. A statement about every command as syntax, proved constructor by constructor: what the fields of its encoding are. -/

namespace Sys2Proof.Laws.EncodedFields

/-- The fields of the encoding (R90, R93): RSV is 0, V and CH are the indices the command uses and 0 where it uses none, and the word
selects the command by its OP. -/
def Statement (i : Instr) : Prop :=
  rsvField (encode i) = 0 ∧ (vField (encode i)).val = i.voice?.getD 0 ∧ (chField (encode i)).val = i.channel?.getD 0 ∧
    select (encode i) = some i

/-- The fields of the word made of an OP, a V and a CH field. -/
theorem fieldsWord_fields (op : Nat) (v ch : Fin 16) (hop : op < 256) :
    opField (fieldsWord op v ch) = op ∧ vField (fieldsWord op v ch) = v ∧ chField (fieldsWord op v ch) = ch ∧
      rsvField (fieldsWord op v ch) = 0 := by
  have hw : (fieldsWord op v ch).toNat = op + 256 * v.val + 4096 * ch.val := by
    simp only [fieldsWord, BitVec.toNat_ofNat]; omega
  refine ⟨?_, ?_, ?_, ?_⟩
  · simp only [opField, hw]; omega
  · apply Fin.ext; simp only [vField, hw, Fin.ofNat]; omega
  · apply Fin.ext; simp only [chField, hw, Fin.ofNat]; omega
  · simp only [rsvField, hw]; omega

theorem nop : Statement .nop := by unfold Statement; decide

theorem prepare : Statement .prepare := by unfold Statement; decide

theorem setTranspo (v : Fin 16) : Statement (.setTranspo v) := by
  obtain ⟨h1, h2, h3, h4⟩ := fieldsWord_fields 0x02 v 0 (by omega)
  have e : encode (.setTranspo v) = fieldsWord 0x02 v (0 : Fin 16) := rfl
  unfold Statement select
  rw [e, h1, h2, h3, h4]
  exact ⟨rfl, rfl, rfl, rfl⟩

theorem setWindow : Statement .setWindow := by unfold Statement; decide

theorem process : Statement .process := by unfold Statement; decide

theorem oscInit (v ch : Fin 16) : Statement (.oscInit v ch) := by
  obtain ⟨h1, h2, h3, h4⟩ := fieldsWord_fields 0x10 v ch (by omega)
  have e : encode (.oscInit v ch) = fieldsWord 0x10 v ch := rfl
  unfold Statement select
  rw [e, h1, h2, h3, h4]
  exact ⟨rfl, rfl, rfl, rfl⟩

theorem oscSetFreq (v ch : Fin 16) : Statement (.oscSetFreq v ch) := by
  obtain ⟨h1, h2, h3, h4⟩ := fieldsWord_fields 0x11 v ch (by omega)
  have e : encode (.oscSetFreq v ch) = fieldsWord 0x11 v ch := rfl
  unfold Statement select
  rw [e, h1, h2, h3, h4]
  exact ⟨rfl, rfl, rfl, rfl⟩

theorem oscSetType (v ch : Fin 16) : Statement (.oscSetType v ch) := by
  obtain ⟨h1, h2, h3, h4⟩ := fieldsWord_fields 0x12 v ch (by omega)
  have e : encode (.oscSetType v ch) = fieldsWord 0x12 v ch := rfl
  unfold Statement select
  rw [e, h1, h2, h3, h4]
  exact ⟨rfl, rfl, rfl, rfl⟩

theorem oscSetDebug (v ch : Fin 16) : Statement (.oscSetDebug v ch) := by
  obtain ⟨h1, h2, h3, h4⟩ := fieldsWord_fields 0x13 v ch (by omega)
  have e : encode (.oscSetDebug v ch) = fieldsWord 0x13 v ch := rfl
  unfold Statement select
  rw [e, h1, h2, h3, h4]
  exact ⟨rfl, rfl, rfl, rfl⟩

theorem oscNext (v ch : Fin 16) : Statement (.oscNext v ch) := by
  obtain ⟨h1, h2, h3, h4⟩ := fieldsWord_fields 0x14 v ch (by omega)
  have e : encode (.oscNext v ch) = fieldsWord 0x14 v ch := rfl
  unfold Statement select
  rw [e, h1, h2, h3, h4]
  exact ⟨rfl, rfl, rfl, rfl⟩

theorem rbConfigure : Statement .rbConfigure := by unfold Statement; decide

theorem rbInit : Statement .rbInit := by unfold Statement; decide

theorem rbWrite : Statement .rbWrite := by unfold Statement; decide

theorem rbRead (ch : Fin 16) : Statement (.rbRead ch) := by
  obtain ⟨h1, h2, h3, h4⟩ := fieldsWord_fields 0x23 0 ch (by omega)
  have e : encode (.rbRead ch) = fieldsWord 0x23 (0 : Fin 16) ch := rfl
  unfold Statement select
  rw [e, h1, h2, h3, h4]
  exact ⟨rfl, rfl, rfl, rfl⟩

theorem cvtS2n : Statement .cvtS2n := by unfold Statement; decide

theorem cvtT2f : Statement .cvtT2f := by unfold Statement; decide

end Sys2Proof.Laws.EncodedFields
end

