-- ==== Sys2Proof/Laws/Step.lean ====
section
/-! SUPPORT. What a step can do, said once: the moves of the executor and the events, for claims about every step to go through. -/

namespace Sys2Proof.Machine

theorem step_of_nil {s : State} (h : s.inputs = []) : step s = executorMove s := by unfold step; rw [h]

theorem step_of_cons {s : State} {e : Event} {rest : List Event} (h : s.inputs = e :: rest) :
    step s = takeEvent e { s with inputs := rest } := by unfold step; rw [h]

@[simp] theorem takeEvent_turn (s : State) : takeEvent .turn s = executorMove s := rfl

@[simp] theorem takeEvent_access (a : Access) (s : State) : takeEvent (.access a) s = .next (hostAccess a s) := rfl

@[simp] theorem takeEvent_drive (level : Bool) (s : State) : takeEvent (.drive level) s = .next (driveReset level s) := rfl

/-- A move of the executor that goes on: held by RST, a start or idling, or a completion. -/
theorem executorMove_cases {s t : State} (h : executorMove s = .next t) :
    (s.rst = true ∧ t = s) ∨ (s.rst = false ∧ s.inflight = none ∧ t = s.startNext) ∨
      ∃ e, s.rst = false ∧ s.inflight = some e ∧ completeEntry e s = .next t := by
  unfold executorMove at h
  cases hr : s.rst with
  | true => simp [hr] at h; exact .inl ⟨rfl, h.symm⟩
  | false =>
    cases hi : s.inflight with
    | none => simp [hr, hi] at h; exact .inr (.inl ⟨rfl, rfl, h.symm⟩)
    | some e => simp [hr, hi] at h; exact .inr (.inr ⟨e, rfl, rfl, h⟩)

/-- A completion that goes on: a command that executed, or an illegal word that aborted. -/
theorem completeEntry_cases {e : Entry} {s t : State} (h : completeEntry e s = .next t) :
    (∃ i, decode e.word = .ok i ∧ exec i s = .next t) ∨
      ∃ d, decode e.word = .error d ∧ t = s.abort (decodeErrCode d) (sourceOf e.word) := by
  unfold completeEntry at h
  cases hd : decode e.word with
  | ok i => rw [hd] at h; exact .inl ⟨i, rfl, h⟩
  | error d => rw [hd] at h; cases h; exact .inr ⟨d, rfl, rfl⟩

/-- A step that goes on: the executor's move on what is left of the events, a host access, or a level on RST. -/
theorem step_cases {s t : State} (h : step s = .next t) :
    (∃ rest, (s.inputs = [] ∧ rest = [] ∨ s.inputs = .turn :: rest) ∧ executorMove { s with inputs := rest } = .next t) ∨
      (∃ a rest, s.inputs = .access a :: rest ∧ t = hostAccess a { s with inputs := rest }) ∨
      ∃ level rest, s.inputs = .drive level :: rest ∧ t = driveReset level { s with inputs := rest } := by
  cases hi : s.inputs with
  | nil =>
    refine .inl ⟨[], .inl ⟨rfl, rfl⟩, ?_⟩
    rw [step_of_nil hi] at h
    rw [← hi]; exact h
  | cons e rest =>
    rw [step_of_cons hi] at h
    cases e with
    | turn => exact .inl ⟨rest, .inr rfl, h⟩
    | access a => cases h; exact .inr (.inl ⟨a, rest, rfl, rfl⟩)
    | drive level => cases h; exact .inr (.inr ⟨level, rest, rfl, rfl⟩)

end Sys2Proof.Machine
end

