-- ==== Sys2Proof/Tests/Slice0.lean ====
section
/-! SUPPORT. The model's own tests: ill-formed terms refused, words decoded bit by bit, the primitives and one step of each command on the
spec's own vectors (spec/95_test_vectors.md), and for each statement with hypotheses a state and operands that meet them. -/

namespace Sys2Proof.Tests

-- One proof at a time: the kernel evaluations below, started all at once, need more threads than the sandbox has memory for.
set_option Elab.async false

open Sys2Proof.Machine

/-! ## Helpers -/

/-- `s` with a command word and its operands in flight. -/
def fly (s : State) (word a0 a1 : Word) : State := { s with inflight := some { word := word, a0 := a0, a1 := a1 } }

/-- `s` with one event to come. -/
def coming (s : State) (e : Event) : State := { s with inputs := [e] }

/-- The state a step goes on to; the reset state if it does not go on, which the tests exclude by what they expect. -/
def after (s : State) : State :=
  match step s with
  | .next t => t
  | .fault _ => State.reset
  | .refused _ => State.reset

/-- The outcome goes on. -/
def goesOn (o : Host.Outcome State Fault Refusal) : Bool :=
  match o with
  | .next _ => true
  | .fault _ => false
  | .refused _ => false

/-- The fault an outcome stops at. -/
def faultOf (o : Host.Outcome State Fault Refusal) : Option Fault :=
  match o with
  | .next _ => none
  | .fault f => some f
  | .refused _ => none

theorem goesOn_next {o : Host.Outcome State Fault Refusal} (h : goesOn o = true) : ∃ t, o = .next t := by
  cases o with
  | next t => exact ⟨t, rfl⟩
  | fault f => cases h
  | refused r => cases h

theorem faultOf_fault {o : Host.Outcome State Fault Refusal} {f : Fault} (h : faultOf o = some f) : o = .fault f := by
  cases o with
  | next t => cases h
  | fault g => cases h; rfl
  | refused r => cases h

/-- A computation succeeds. -/
def succeeds (x : Except Fault State) : Bool :=
  match x with
  | .ok _ => true
  | .error _ => false

theorem succeeds_ok {x : Except Fault State} (h : succeeds x = true) : ∃ t, x = .ok t := by
  cases x with
  | ok t => exact ⟨t, rfl⟩
  | error f => cases h

/-- The register at an offset of the register map. -/
def reg (s : State) (off : Nat) : Word := s.regValue (targetOf off)

/-- A prepared state of the reference instance with a ring of four cells, a block of two samples and a window of one. Ring and block
hold defined cells. -/
def small : State :=
  { State.reset with
    prepared := true, sr := 48000#32, cap := 4#32, blksz := 2#32, wptr := 3#32, winSamp := 1#32
    ring := Vector.replicate 8 { filled := 4, cells := [(1, 0x40000000#32)] }
    io := Vector.replicate 8 { filled := 2, cells := [(0, 0x3F800000#32)] } }

/-- The same, silent. -/
def silent : State :=
  { small with
    ring := Vector.replicate 8 { filled := 4, cells := [] }
    io := Vector.replicate 8 { filled := 2, cells := [] } }

/-- What PREPARE 8000, 2 leaves. -/
def prepared : State := after (fly State.reset 0x00000001#32 8000#32 2#32)

/-- What program P3 of spec/95 leaves in the ring. -/
def p3 : State :=
  { State.reset with
    cap := 8#32, blksz := 4#32, wptr := 4#32
    ring := #v[
      { filled := 8
        cells := [(0, 0x41100000#32), (1, 0x41200000#32), (2, 0x41300000#32), (3, 0x41400000#32),
                  (4, 0x40A00000#32), (5, 0x40C00000#32), (6, 0x40E00000#32), (7, 0x41000000#32)] },
      { filled := 8
        cells := [(0, 0xC1100000#32), (1, 0xC1200000#32), (2, 0xC1300000#32), (3, 0xC1400000#32),
                  (4, 0xC0A00000#32), (5, 0xC0C00000#32), (6, 0xC0E00000#32), (7, 0xC1000000#32)] },
      Memory.undefined, Memory.undefined, Memory.undefined, Memory.undefined, Memory.undefined, Memory.undefined] }

/-! ## Well-formedness: each check refuses an ill-formed term (R93, R96) -/

theorem test_voiceLegal_refuses : (Instr.setTranspo 3).voiceLegal {} = false ∧ (Instr.setTranspo 2).voiceLegal {} = true := by
  decide

theorem test_channelLegal_refuses : (Instr.rbRead 2).channelLegal {} = false ∧ (Instr.rbRead 1).channelLegal {} = true := by
  decide

theorem test_wellFormed_refuses :
    (Instr.oscNext 3 0).wellFormed {} = false ∧ (Instr.oscNext 0 2).wellFormed {} = false ∧
    (Instr.oscNext 2 1).wellFormed {} = true ∧ (Instr.oscNext 3 7).wellFormed { nch := 8, nvoice := 4 } = true := by
  decide

/-! ## Decoding: words written bit by bit from the patterns of R95 -/

theorem test_decode_engine :
    decode 0b00000000000000000000000000000000#32 = .ok .nop ∧
    decode 0b00000000000000000000000000000001#32 = .ok .prepare ∧
    decode 0b00000000000000000000111100000010#32 = .ok (.setTranspo 15) ∧
    decode 0b00000000000000000000000000000011#32 = .ok .setWindow ∧
    decode 0b00000000000000000000000000000100#32 = .ok .process := by decide

theorem test_decode_oscillator :
    decode 0b00000000000000001000000100010000#32 = .ok (.oscInit 1 8) ∧
    decode 0b00000000000000000001001000010001#32 = .ok (.oscSetFreq 2 1) ∧
    decode 0b00000000000000000010010000010010#32 = .ok (.oscSetType 4 2) ∧
    decode 0b00000000000000000100100000010011#32 = .ok (.oscSetDebug 8 4) ∧
    decode 0b00000000000000001111000000010100#32 = .ok (.oscNext 0 15) := by decide

theorem test_decode_ring :
    decode 0b00000000000000000000000000100000#32 = .ok .rbConfigure ∧
    decode 0b00000000000000000000000000100001#32 = .ok .rbInit ∧
    decode 0b00000000000000000000000000100010#32 = .ok .rbWrite ∧
    decode 0b00000000000000000101000000100011#32 = .ok (.rbRead 5) := by decide

theorem test_decode_utility :
    decode 0b00000000000000000000000000110000#32 = .ok .cvtS2n ∧
    decode 0b00000000000000000000000000110001#32 = .ok .cvtT2f := by decide

/-- Every unassigned OP is refused (R96). -/
theorem test_decode_reserved_op :
    ([0x05, 0x0F, 0x15, 0x1F, 0x24, 0x2F, 0x32, 0x3F, 0x40, 0x80, 0xFF].all fun w =>
      decide (decode (w32 w) = .error .illegalOpcode)) = true := by decide

/-- A non-zero RSV or unused field is refused, after the OP is looked at (R96, R251; spec/95 section 2.7). -/
theorem test_decode_reserved_field :
    ([0x00010000, 0x80000000, 0x00000100, 0x00001000, 0x00000104, 0x00010304, 0x00001002, 0x00000123].all fun w =>
      decide (decode (w32 w) = .error .reservedField)) = true ∧
    decode 0x00010005#32 = .error .illegalOpcode := by decide

theorem test_decodeTableWord : decodeTableWord 32 0x00001214 = some (.oscNext 2 1) ∧ decodeTableWord 32 0x00000005 = none := by
  decide

theorem test_decodeBytes : decodeBytes [0x14#8, 0x12#8, 0x00#8, 0x00#8, 0xAA#8] = .ok (.oscNext 2 1, [0xAA#8]) := by decide

/-! ## Primitives (spec/95 sections 1.7 and 2.1) -/

theorem test_mod1 :
    mod1 0x3FA00000#32 = 0x3E800000#32 ∧ mod1 0xBE800000#32 = 0x3F400000#32 ∧ mod1 0x80000000#32 = 0#32 ∧
    mod1 0xB0800000#32 = 0#32 ∧ mod1 0x80000001#32 = 0#32 ∧ mod1 0xBF7FFFFF#32 = 0x33800000#32 := by decide +kernel

theorem test_round : roundAway 0x3F000000#32 = 1 ∧ roundAway 0x40200000#32 = 3 ∧ roundAway 0xC0200000#32 = -3 ∧
    roundAway 0x435C8000#32 = 221 := by decide +kernel

theorem test_split : splitInt 0x4595FFFE#32 = 4799 ∧ splitFrac 0x4595FFFE#32 = 0x3F7FC000#32 ∧
    splitInt 0x45960000#32 = 4800 ∧ splitFrac 0x45960000#32 = 0#32 := by decide +kernel

theorem test_sinPi :
    sinPi .reference 0x00000001#32 = 0x00000003#32 ∧ sinPi .reference 0x3E000000#32 = 0x3EC3EF15#32 ∧
    sinPi .reference 0x3E800000#32 = 0x3F3504F3#32 ∧ sinPi .reference 0x3EAAAAAB#32 = 0x3F5DB3D8#32 ∧
    sinPi .reference 0x3F000001#32 = 0x3F800000#32 ∧ sinPi .reference 0x3F7FFFFF#32 = 0x34490FDB#32 := by decide +kernel

theorem test_exp2 :
    exp2 .reference 0x3DAAAAAB#32 = 0x3F879C7D#32 ∧ exp2 .reference 0x3EAAAAAB#32 = 0x3FA14518#32 ∧
    exp2 .reference 0x3F155555#32 = 0x3FBFC887#32 ∧ exp2 .reference 0xBDAAAAAB#32 = 0x3F71A1BF#32 ∧
    exp2 .reference 0xFF800000#32 = 0#32 := by decide +kernel

theorem test_phaseB :
    phaseB 0#32 = 0x3F000000#32 ∧ phaseB 0x3F000001#32 = 0#32 ∧ phaseB 0x3F000003#32 = 0x34800000#32 ∧
    phaseB 0x3EFFFFFF#32 = 0#32 ∧ phaseB 0x3EFFFFFE#32 = 0x3F7FFFFF#32 := by decide +kernel

/-- Overflow, a cancelled NaN, the zero signs of R120. -/
theorem test_arithmetic_corners :
    fsub 0xFF7FFFFF#32 0x7F7FFFFF#32 = 0xFF800000#32 ∧ fsub 0x7F800000#32 0x7F800000#32 = 0x7FC00000#32 ∧
    fadd 0x80000000#32 0x80000000#32 = 0x80000000#32 ∧ fsub 0x3F800000#32 0x3F800000#32 = 0#32 ∧
    fdiv 0x3F800000#32 0x80000000#32 = 0xFF800000#32 ∧ fmul 0x7F800000#32 0x80000000#32 = 0x7FC00000#32 := by decide +kernel

/-! ## One step of each command -/

/-- R210's example: only CMDDONE is set. -/
theorem test_nop : (after (fly State.reset 0x00000000#32 7#32 7#32)).statusWord = 0x00000020#32 := by decide +kernel

/-- spec/95 section 2.5: PREPARE 48000, 64. -/
theorem test_prepare :
    let t := after (fly State.reset 0x00000001#32 48000#32 64#32)
    [reg t 0x024, reg t 0x02C, reg t 0x028, reg t 0x030, reg t 0x038, reg t 0x098, reg t 0x004] =
      [48000#32, 48000#32, 64#32, 0#32, 2400#32, 0x41A00000#32, 0x00000028#32] ∧
    (t.ringMem 1).read 47999 = some 0#32 ∧ (t.ringMem 1).read 48000 = none := by decide +kernel

/-- spec/95 section 2.5: PREPARE 7999, 64 aborts with error 5. -/
theorem test_prepare_badRate :
    let t := after (fly State.reset 0x00000001#32 7999#32 64#32)
    t.errinfo = 0x00000105#32 ∧ t.statusWord = 0x00000420#32 ∧ t.sr = 0#32 := by decide +kernel

/-- R214's example: 20.0 is stored as 12.0 with W_CLAMP, and the voice runs at 40 Hz on every channel. -/
theorem test_setTranspo_clamps :
    let t := after (fly State.reset 0x00000102#32 0x41A00000#32 0#32)
    [reg t 0x084, reg t 0x094, reg t 0x220, reg t 0x224, reg t 0x004, reg t 0x090] =
      [0x41400000#32, 0x42200000#32, 0x42200000#32, 0x42200000#32, 0x00004020#32, 0x41A00000#32] := by decide +kernel

/-- spec/95 section 2.5: -0.0 is stored as it is, NaN aborts. -/
theorem test_setTranspo_corners :
    reg (after (fly State.reset 0x00000102#32 0x80000000#32 0#32)) 0x084 = 0x80000000#32 ∧
    (after (fly State.reset 0x00000102#32 0x7FC00000#32 0#32)).errinfo = 0x00010205#32 := by decide +kernel

/-- R215's example, at 48000 Hz: 100 ms is 4800 samples and 10 Hz. -/
theorem test_setWindow :
    let t := after (fly { State.reset with prepared := true, sr := 48000#32 } 0x00000003#32 0x42C80000#32 0#32)
    [reg t 0x034, reg t 0x038, reg t 0x094, reg t 0x004] = [0x42C80000#32, 4800#32, 0x41200000#32, 0x00000028#32] := by
  decide +kernel

/-- Program P5: before PREPARE WIN_SAMP stays 0, and 400 ms is stored as 300. -/
theorem test_setWindow_unprepared :
    let t := after (fly State.reset 0x00000003#32 0x43C80000#32 0#32)
    [reg t 0x034, reg t 0x038, reg t 0x090, reg t 0x004] = [0x43960000#32, 0#32, 0x40555555#32, 0x00004020#32] := by
  decide +kernel

/-- By hand from R219 to R222: every phase 0.5, so Reader A interpolates halfway between ages 1 (2.0) and 2 (4.0), Reader B's envelope is
0; three voices give 9.0, times OUTGAIN; the phase advances by 0.25. -/
theorem test_process :
    let t := after (fly { small with
      cap := 4#32, blksz := 1#32, wptr := 3#32
      oscs := Vector.replicate 32 { phase := 0x3F000000#32, freq := 0x463B8000#32 }
      ring := Vector.replicate 8 { filled := 4, cells := [(1, 0x40800000#32), (2, 0x40000000#32)] } } 0x00000004#32 0#32 0#32)
    (t.ioMem 0).read 0 = some 0x40905788#32 ∧ (t.ioMem 1).read 0 = some 0x40905788#32 ∧
    [reg t 0x020, reg t 0x030, reg t 0x100, reg t 0x144, reg t 0x004] =
      [1#32, 0#32, 0x3F400000#32, 0x3F400000#32, 0x00000038#32] := by decide +kernel

/-- spec/95 section 2.5: PROCESS before PREPARE. -/
theorem test_process_notReady : (after (fly State.reset 0x00000004#32 0#32 0#32)).errinfo = 0x00000404#32 := by decide +kernel

/-- R153's example; the other channel keeps its phase. -/
theorem test_oscInit :
    let t := after (fly { State.reset with oscs := Vector.replicate 32 { phase := 0x3F000000#32 } } 0x00001010#32 0#32 0#32)
    reg t 0x104 = 0#32 ∧ reg t 0x100 = 0x3F000000#32 ∧
    (after (fly State.reset 0x00002010#32 0#32 0#32)).errinfo = 0x00201003#32 := by decide +kernel

theorem test_oscSetFreq :
    reg (after (fly State.reset 0x00000011#32 0x463B8000#32 0#32)) 0x200 = 0x463B8000#32 ∧
    (after (fly State.reset 0x00000011#32 0x7F800000#32 0#32)).errinfo = 0x00001105#32 := by decide +kernel

theorem test_oscSetType :
    (after (fly State.reset 0x00000112#32 0#32 0#32)).statusWord = 0x00000020#32 ∧
    (after (fly State.reset 0x00000112#32 1#32 0#32)).errinfo = 0x00011205#32 := by decide +kernel

/-- R160's example, its word encoded by R90 (log 20). -/
theorem test_oscSetDebug :
    reg (after (fly State.reset 0x00001213#32 1#32 0#32)) 0x344 = 0x00000100#32 ∧
    (after (fly State.reset 0x00001213#32 2#32 0#32)).errinfo = 0x00121305#32 := by decide +kernel

/-- R162's example, the wrapping call: 0.75 is returned and the phase becomes +0.0. -/
theorem test_oscNext :
    let t := after (fly { small with oscs := Vector.replicate 32 { phase := 0x3F400000#32, freq := 0x463B8000#32 } }
      0x00000014#32 0#32 0#32)
    reg t 0x01C = 0x3F400000#32 ∧ reg t 0x100 = 0#32 ∧ reg t 0x104 = 0x3F400000#32 := by decide +kernel

theorem test_oscNext_errors :
    (after (fly State.reset 0x00000014#32 0#32 0#32)).errinfo = 0x00001404#32 ∧
    (after (fly small 0x0000F014#32 0#32 0#32)).errinfo = 0x00F01403#32 := by decide +kernel

theorem test_rbConfigure :
    let t := after (fly small 0x00000020#32 8#32 16#32)
    t.cap = 8#32 ∧ t.blksz = 16#32 ∧ t.wptr = 0#32 ∧ t.ring = small.ring ∧
    (after (fly State.reset 0x00000020#32 192001#32 4#32)).errinfo = 0x00002005#32 := by decide +kernel

theorem test_rbInit :
    let t := after (fly { small with cap := 2#32 } 0x00000021#32 0#32 0#32)
    t.wptr = 0#32 ∧ t.ring[0] = { filled := 4, cells := [] } ∧ t.ring[2] = small.ring[2] ∧
    (after (fly State.reset 0x00000021#32 0#32 0#32)).errinfo = 0x00002104#32 := by decide +kernel

/-- R184's example: the block wraps at the capacity. -/
theorem test_rbWrite :
    let t := after (fly { p3 with
      wptr := 6#32
      io := Vector.replicate 8
        { filled := 4, cells := [(0, 0x3F800000#32), (1, 0x40000000#32), (2, 0x40400000#32), (3, 0x40800000#32)] } }
      0x00000022#32 0#32 0#32)
    t.wptr = 2#32 ∧ ([6, 7, 0, 1, 2].map fun i => (t.ringMem 0).read i) =
      [some 0x3F800000#32, some 0x40000000#32, some 0x40400000#32, some 0x40800000#32, some 0x41300000#32] := by decide +kernel

/-- spec/95 section 2.6: reads on the state program P3 leaves. -/
theorem test_rbRead :
    (after (fly p3 0x00000023#32 3#32 0x3F000000#32)).result = 0x41380000#32 ∧
    (after (fly p3 0x00000023#32 0xFFFFFFFC#32 0#32)).result = 0x40A00000#32 ∧
    (after (fly p3 0x00001023#32 1#32 0x40100000#32)).result = 0xC0F80000#32 := by decide +kernel

/-- spec/95 section 2.6: ahead of the write cursor, the read gives +0.0 and error 7. -/
theorem test_rbRead_range :
    let t := after (fly p3 0x00000023#32 4#32 0x3F000000#32)
    t.result = 0#32 ∧ t.errinfo = 0x00002307#32 ∧ t.statusWord = 0x00001020#32 := by decide +kernel

/-- spec/95 section 2.2. -/
theorem test_cvtS2n :
    (after (fly State.reset 0x00000030#32 0x3BA3D70A#32 44100#32)).result = 221#32 ∧
    (after (fly State.reset 0x00000030#32 0x3F000000#32 3#32)).result = 2#32 ∧
    (after (fly State.reset 0x00000030#32 0x4F800000#32 0x01000000#32)).errinfo = 0x00003005#32 := by decide +kernel

/-- spec/95 section 2.3. -/
theorem test_cvtT2f :
    (after (fly State.reset 0x00000031#32 0x41500000#32 0x42480000#32)).result = 0x4229839C#32 ∧
    (after (fly State.reset 0x00000031#32 0#32 0x80000000#32)).result = 0xFF800000#32 := by decide +kernel

/-! ## The bus and RST (spec/95 section 2.8) -/

theorem test_reset_reads :
    ([0x000, 0x004, 0x034, 0x03C, 0x040, 0x044, 0x08C, 0x090, 0x204, 0x208].map (reg State.reset)) =
      [0x50534331#32, 0#32, 0x42480000#32, 0x3F004DCE#32, 0x08000432#32, 0x0002EE00#32, 0#32, 0x41A00000#32,
       0x41A00000#32, 0#32] := by decide +kernel

theorem test_badAccess :
    let t := after (coming State.reset (.access (.write 0x012 2 1#32)))
    t.errinfo = 0x0000FF09#32 ∧ t.statusWord = 0x00002000#32 ∧ t.resp = some { data := 0#32, err := true } := by decide +kernel

theorem test_qtranspo_enqueues :
    (after (coming State.reset (.access (.write 0x0A4 4 0x40E00000#32)))).fifo =
      [{ word := 0x00000102#32, a0 := 0x40E00000#32, a1 := 0#32 }] ∧
    (after (coming State.reset (.access (.write 0x0AC 4 0x40E00000#32)))).fifo = [] := by decide +kernel

theorem test_irqen_keeps_sources :
    reg (after (coming State.reset (.access (.write 0x00C 4 0xFFFFFFFF#32)))) 0x00C = 0x00007F30#32 := by decide +kernel

theorem test_io_conflict :
    let t := after (coming (fly small 0x00000004#32 0#32 0#32) (.access (.write 0x10000 4 5#32)))
    t.errinfo = 0x0000FF08#32 ∧ t.io = small.io := by decide +kernel

/-- R65's layout, as spec/95 states it for 1.0 at IOBUF[0][0]. -/
theorem test_io_bytes : small.ioByte 0x10000 = some 0x00#8 ∧ small.ioByte 0x10003 = some 0x3F#8 := by decide +kernel

theorem test_reset_drive :
    let t := after (coming (fly small 0x00000004#32 0#32 0#32) (.drive true))
    t.inflight = none ∧ t.statusWord = 0#32 ∧ (t.ringMem 0).read 0 = none ∧ t.rst = true := by decide +kernel

/-- The next step after `withFetchWord` runs the word: OSC_SET_FREQ v2, ch1 with the reset's ARG0 sets 0.0. -/
theorem test_withFetchWord : reg (after (State.reset.withFetchWord 32 0x00001211)) 0x244 = 0#32 := by decide +kernel

/-! ## Witnesses: for each statement with hypotheses, a state and operands that meet them, clause by clause at the edges of their ranges -/

theorem small_legal : small.memoryLegal ∧ small.cursorLegal ∧ small.controlLegal ∧ small.blockDefined ∧ small.ringDefined := by
  decide +kernel

theorem small_engineLegal : small.engineLegal :=
  ⟨by decide +kernel, by decide +kernel, fun v ch hv hch =>
    (by decide +kernel : ∀ v, v < 4 → ∀ ch, ch < 8 →
      unitPhase (small.osc v ch).phase ∧ isFinite (small.osc v ch).freq = true) v hv ch hch⟩

theorem silent_engineLegal : silent.engineLegal :=
  ⟨by decide +kernel, by decide +kernel, fun v ch hv hch =>
    (by decide +kernel : ∀ v, v < 4 → ∀ ch, ch < 8 →
      unitPhase (silent.osc v ch).phase ∧ isFinite (silent.osc v ch).freq = true) v hv ch hch⟩

theorem prepared_engineLegal : prepared.engineLegal :=
  ⟨by decide +kernel, by decide +kernel, fun v ch hv hch =>
    (by decide +kernel : ∀ v, v < 4 → ∀ ch, ch < 8 →
      unitPhase (prepared.osc v ch).phase ∧ isFinite (prepared.osc v ch).freq = true) v hv ch hch⟩

theorem witness_ResetInputAbandonsAndHolds :
    (coming small (.drive true)).inputs = .drive true :: [] ∧
    (let s := coming { small with rst := true } (.access (.write 0x00C 4 1#32))
     s.rst = true ∧ s.inputs = .access (.write 0x00C 4 1#32) :: []) ∧
    (let s := coming { small with rst := true } .turn; s.rst = true ∧ s.inputs = .turn :: []) ∧
    (coming { small with rst := true } (.drive false)).inputs = .drive false :: [] := by decide +kernel

theorem witness_DecodeEncodeInverse : decode 0x0000FF14#32 = .ok (.oscNext 15 15) := by decide

/-- The turn with no event left and as an event, with words at the edges of each clause. -/
theorem witness_IllegalWordsAbort :
    (let s := fly small 0x00000005#32 0#32 0#32
     s.rst = false ∧ s.executorTurn [] ∧ s.inflight = some { word := 0x00000005#32, a0 := 0#32, a1 := 0#32 }) ∧
    (let s := coming (fly small 0x00000302#32 0#32 0#32) .turn
     s.rst = false ∧ s.executorTurn [] ∧ s.inflight = some { word := 0x00000302#32, a0 := 0#32, a1 := 0#32 }) ∧
    0x05 ∉ [0x00, 0x01, 0x02, 0x03, 0x04, 0x10, 0x11, 0x12, 0x13, 0x14, 0x20, 0x21, 0x22, 0x23, 0x30, 0x31] ∧
    (0x00010000 / 65536 ≠ 0) ∧ (0x00000F04 / 256 % 16 ≠ 0) ∧
    (small.params.nvoice ≤ 0x00000302 / 256 % 16) ∧ (small.params.nch ≤ 0x00002023 / 4096 % 16) := by decide +kernel

theorem witness_StepRunsDecodedCommand :
    let e : Entry := { word := 0x00001214#32, a0 := 0#32, a1 := 0#32 }
    let s := { small with inflight := some e }
    s.rst = false ∧ s.inflight = some e ∧ decode e.word = .ok (.oscNext 2 1) ∧ s.inputs = [] ∧
    (coming s .turn).inputs = .turn :: [] := by decide +kernel

theorem witness_ExecutorTakesOldest :
    let e : Entry := { word := 0#32, a0 := 0#32, a1 := 0#32 }
    let s := { small with fifo := [e, e], inputs := [.turn, .turn] }
    (s.rst = false ∧ s.executorTurn [.turn] ∧ s.inflight = none ∧ s.fifo = e :: [e]) ∧
    small.rst = false ∧ small.executorTurn [] ∧ small.inflight = none ∧ small.fifo = [] := by decide +kernel

theorem witness_StateAndOperandChecksAbort :
    State.reset.prepared = false ∧ State.reset.cap = 0#32 ∧ (1 : Nat) < State.reset.params.nch ∧
    (fly small 1#32 7999#32 1#32).operand0.toNat < 8000 ∧ 192000 < (fly small 1#32 192001#32 1#32).operand0.toNat ∧
    (fly small 1#32 8000#32 0#32).operand1.toNat < 1 ∧ 2048 < (fly small 1#32 8000#32 2049#32).operand1.toNat ∧
    (fly small 0x20#32 0#32 1#32).operand0.toNat < 1 ∧ isNaN (fly small 3#32 0xFFC00000#32 0#32).operand0 = true ∧
    isFinite (fly small 0x30#32 0x7F800000#32 1#32).operand0 = false ∧ units (fly small 0x30#32 0x80000001#32 1#32).operand0 < 0 ∧
    (fly small 0x30#32 0#32 0#32).operand1 = 0#32 ∧ 2 ^ 24 < (fly small 0x30#32 0#32 0x01000001#32).operand1.toNat ∧
    fmul 0x7F7FFFFF#32 (i2f 2) = 0x7F800000#32 ∧ 2 ^ 32 - 1 < roundAway (fmul 0x4F800000#32 (i2f 1)) ∧
    (fly small 0x12#32 1#32 0#32).operand0 ≠ 0#32 ∧ 1 < (fly small 0x13#32 2#32 0#32).operand0.toNat := by decide +kernel

theorem witness_CommandsLeaveHostSide : ∃ t, exec .nop small = .next t := ⟨_, rfl⟩

theorem witness_ErrorsNeverStopTheBlock :
    faultOf (step (fly { small with io := State.reset.io } 0x22#32 0#32 0#32)) = some (.undefinedIoCell 0 0) ∧
    (fly { p3 with ring := State.reset.ring } 0x1023#32 0#32 0#32).memoryLegal ∧
    faultOf (step (fly { p3 with ring := State.reset.ring } 0x1023#32 0#32 0#32)) = some (.undefinedRingCell 1 0) := by
  decide +kernel

theorem witness_RoundingIsNearestEven :
    rneMag 3 2 < 0x7F800000 ∧ (1 : Nat) < 0x7F800000 ∧ 1 ≠ rneMag 3 2 ∧ (2 ^ 25 - 1) * 2 ^ 252 * 1 ≤ (2 ^ 25 - 1) * 2 ^ 252 := by
  decide +kernel

theorem witness_ModOneAndSplitAreExact :
    isFinite 0x7F7FFFFF#32 = true ∧ 0 ≤ units 0x7F7FFFFF#32 ∧ isFinite 0x80000001#32 = true ∧ isFinite 0x7F800000#32 = false ∧
    0 ≤ units 0x80000000#32 := by decide +kernel

theorem witness_ReaderBHalfCycle :
    unitPhase 0x3F7FFFFF#32 ∧ unitPhase 0x3F400000#32 ∧ 2 ^ 148 ≤ units 0x3F400000#32 ∧ units 0x3F400000#32 % 2 ^ 126 = 0 := by
  decide +kernel

theorem witness_EnvelopeProperties : unitPhase 0x00000001#32 ∧ (0x00000001#32 : Word) ≠ 0#32 ∧ unitPhase 0x3F7FFFFF#32 := by decide

theorem witness_ExponentialProperties :
    isFinite 0xFF7FFFFF#32 = true ∧ isFinite 0x7F7FFFFF#32 = true ∧ units 0xFF7FFFFF#32 ≤ units 0x7F7FFFFF#32 ∧
    units 0xBF800000#32 ≤ units 0x3F000000#32 ∧ units 0x3F000000#32 ≤ units 0x3F800000#32 := by decide +kernel

theorem witness_FrequencyMonotone :
    isFinite 0x00000001#32 = true ∧ 0 < units 0x00000001#32 ∧ isFinite 0xC1400000#32 = true ∧ isFinite 0x41400000#32 = true ∧
    units 0xC1400000#32 ≤ units 0x41400000#32 := by decide +kernel

theorem witness_CvtS2nCounts :
    let s := fly State.reset 0x30#32 0x437FFFFF#32 0x01000000#32
    isFinite s.operand0 = true ∧ 0 ≤ units s.operand0 ∧ 1 ≤ s.operand1.toNat ∧ s.operand1.toNat ≤ 2 ^ 24 ∧
    fmul s.operand0 (i2f s.operand1.toNat) ≠ 0x7F800000#32 ∧
    roundAway (fmul s.operand0 (i2f s.operand1.toNat)) ≤ 2 ^ 32 - 1 := by decide +kernel

theorem witness_OscSettersWriteOneField :
    (2 : Fin 16).val < State.reset.params.nvoice ∧ (1 : Fin 16).val < State.reset.params.nch ∧
    isFinite (fly State.reset 0x11#32 0xFF7FFFFF#32 0#32).operand0 = true ∧ State.reset.operand0 = 0#32 ∧
    (fly State.reset 0x13#32 1#32 0#32).operand0 = 1#32 := by decide +kernel

theorem witness_OscNextReturnsThenAdvances :
    (2 : Fin 16).val < small.params.nvoice ∧ (1 : Fin 16).val < small.params.nch ∧ small.prepared = true := by decide +kernel

theorem witness_PhaseLawExact :
    let s := small.setOsc 2 1 { freq := 0x463B8000#32 }
    (2 : Fin 16).val < s.params.nvoice ∧ (1 : Fin 16).val < s.params.nch ∧ s.prepared = true ∧ (s.osc 2 1).phase = 0#32 ∧
    2 ≤ 23 ∧ 1 < 2 ^ 2 ∧ isFinite (fdiv (s.osc 2 1).freq (i2f s.sr.toNat)) = true ∧
    units (fdiv (s.osc 2 1).freq (i2f s.sr.toNat)) = 1 * 2 ^ (149 - 2) := by decide +kernel

theorem witness_RbConfigureSetsGeometry :
    let s := fly State.reset 0x20#32 192000#32 2048#32
    1 ≤ s.operand0.toNat ∧ s.operand0.toNat ≤ 192000 ∧ 1 ≤ s.operand1.toNat ∧ s.operand1.toNat ≤ 2048 := by decide +kernel

theorem witness_RbInitZeroFills : small.memoryLegal ∧ small.cap ≠ 0#32 := by decide +kernel

/-- The first clause with a block longer than the ring: sample 2 of the block is the last written to its cell. -/
theorem witness_RbWriteStoresBlock :
    let s := { small with blksz := 3#32, cap := 2#32, io := Vector.replicate 8 { filled := 3, cells := [] } }
    s.memoryLegal ∧ s.cap ≠ 0#32 ∧ s.blockDefined ∧ 1 < s.params.nch ∧ 2 < s.blksz.toNat ∧
    (∀ l, l < 3 → 2 < l → (s.wptr.toNat + l) % s.cap.toNat ≠ (s.wptr.toNat + 2) % s.cap.toNat) ∧
    (∀ j, j < 2 → (small.wptr.toNat + j) % small.cap.toNat ≠ 2) := by decide +kernel

/-- The oldest tap in range, an interpolated read at both ends of the ring, and one step beyond each end. -/
theorem witness_RbReadInterpolates :
    (1 : Fin 16).val < p3.params.nch ∧ p3.cap ≠ 0#32 ∧ p3.ringDefined ∧
    p3.tapsInRange (-4) 0x00000000#32 ∧ p3.tapsInRange (-3) 0x3F000000#32 ∧ p3.tapsInRange 3 0x3F000000#32 ∧
    ¬ p3.tapsInRange 4 0x3F000000#32 ∧ ¬ p3.tapsInRange (-4) 0x3F000000#32 ∧ ¬ p3.tapsInRange 3 0x7FC00000#32 ∧
    ¬ p3.tapsInRange 3 0x80000001#32 := by decide +kernel

/-- A ring of which only the cell the block's first sample goes to becomes defined, as after RB_CONFIGURE. -/
def bareRing : State := { small with ring := State.reset.ring, winSamp := 0#32, blksz := 1#32, wptr := 0#32 }

/-- The same with a window of one: Reader A's tap, at age 1, is undefined. -/
def bareRingWindow : State := { bareRing with winSamp := 1#32 }

/-- On a defined block: a PROCESS that reads only the cells it wrote, and one that reaches an undefined cell. -/
theorem witness_UndefinedCellsFault_process :
    (bareRing.prepared = true ∧ bareRing.cap ≠ 0#32 ∧ bareRing.blockDefined ∧ goesOn (exec .process bareRing) = true) ∧
    (bareRingWindow.prepared = true ∧ bareRingWindow.cap ≠ 0#32 ∧ bareRingWindow.blockDefined ∧
      bareRingWindow.processReadsUndefined ∧ faultOf (exec .process bareRingWindow) = some (.undefinedRingCell 0 3)) := by
  decide +kernel

/-- An undefined block; a read whose newer tap is undefined; one whose older tap, the oldest in range, is. -/
theorem witness_UndefinedCellsFault :
    (let s := { small with io := State.reset.io }; s.cap ≠ 0#32 ∧ ¬ s.blockDefined ∧ s.prepared = true) ∧
    (let s := fly { p3 with ring := State.reset.ring } 0x23#32 3#32 0#32
     s.cap ≠ 0#32 ∧ s.tapsInRange (i32 s.operand0) s.operand1 ∧
     (s.ringMem 1).read (s.ageCell (s.tapAge (i32 s.operand0) s.operand1)) = none) ∧
    (let s := fly { p3 with ring := Vector.replicate 8 { filled := 0, cells := [(5, 1#32)] } } 0x23#32 0xFFFFFFFD#32 0x3F000000#32
     s.cap ≠ 0#32 ∧ s.tapsInRange (i32 s.operand0) s.operand1 ∧
     (s.ringMem 1).read (s.ageCell (s.tapAge (i32 s.operand0) s.operand1)) ≠ none ∧
     isZero (splitFrac s.operand1) = false ∧
     (s.ringMem 1).read (s.ageCell (s.tapAge (i32 s.operand0) s.operand1 + 1)) = none) := by decide +kernel

theorem witness_BlockRoundTrip :
    (small.memoryLegal ∧ small.cap ≠ 0#32 ∧ small.blksz.toNat ≤ small.cap.toNat ∧ small.blockDefined) ∧
    (∃ t, exec .rbWrite small = .next t) ∧ (1 < small.blksz.toNat ∧ (small.blksz.toNat : Int) - small.cap.toNat ≤ -2) :=
  ⟨by decide +kernel, goesOn_next (by decide +kernel), by decide +kernel⟩

theorem witness_CapacityBoundExact :
    1 ≤ small.blksz.toNat ∧ small.winSamp.toNat ≤ 2 ^ 24 ∧ small.blksz.toNat + 2 * small.winSamp.toNat ≤ small.cap.toNat ∧
    1 < small.blksz.toNat ∧ isFinite 0x3F800000#32 = true ∧ units 0x3F800000#32 ≤ (small.winSamp.toNat : Int) * 2 ^ 149 := by
  decide +kernel

theorem witness_NopOnlyCompletes :
    let e : Entry := { word := 0x00000100#32, a0 := 0#32, a1 := 0#32 }
    let s := coming { small with inflight := some e } .turn
    s.rst = false ∧ s.executorTurn [] ∧ s.inflight = some e ∧ e.word.toNat % 256 = 0 ∧ e.word ≠ 0#32 := by decide +kernel

theorem witness_PrepareSetsUpEngine :
    let s := fly small 1#32 192000#32 2048#32
    s.memoryLegal ∧ 8000 ≤ s.operand0.toNat ∧ s.operand0.toNat ≤ 192000 ∧ 1 ≤ s.operand1.toNat ∧ s.operand1.toNat ≤ 2048 := by
  decide +kernel

theorem witness_CapacityCheckNeverFails : 8000 ≤ 8000 ∧ 192000 ≤ 192000 := by decide

theorem witness_PrepareIdempotent :
    let e : Entry := { word := 1#32, a0 := 8000#32, a1 := 1#32 }
    { small with inflight := some e }.inflight = some e ∧ ∃ t, exec .prepare { small with inflight := some e } = .next t :=
  ⟨rfl, goesOn_next (by decide +kernel)⟩

theorem witness_SetTranspoClamps :
    let s := fly small 0x202#32 0x7F800000#32 0#32
    (2 : Fin 16).val < s.params.nvoice ∧ isNaN s.operand0 = false := by decide +kernel

theorem witness_SetWindowClamps : isNaN (fly small 3#32 0x80000000#32 0#32).operand0 = false := by decide +kernel

/-- A window whose reads are in range, and one of four samples, on a ring of four, whose reads are not. -/
theorem witness_ProcessCompletes :
    (small.memoryLegal ∧ small.prepared = true ∧ small.cap ≠ 0#32 ∧ small.blockDefined ∧ small.ringDefined) ∧
    ¬ small.processReadsOutOfRange ∧ { small with winSamp := 4#32 }.processReadsOutOfRange := by
  refine ⟨by decide +kernel, by decide +kernel, by decide +kernel⟩

/-- R188, R220, R254: the PROCESS whose reads are out of range sets E_RANGE and captures code 7 with OP 0x04. -/
theorem test_process_range :
    let t := after (fly { small with winSamp := 4#32 } 0x00000004#32 0#32 0#32)
    t.errinfo = 0x00000407#32 ∧ t.statusWord = 0x00001038#32 ∧ (t.ioMem 0).read 0 = some 0#32 := by decide +kernel

theorem witness_ProcessComputesBlock :
    (small.memoryLegal ∧ small.prepared = true ∧ 1 < small.params.nch ∧ 1 < small.blksz.toNat ∧ 2 < small.params.nvoice) ∧
    ∃ u t, small.ringWriteBlock = .ok u ∧ exec .process small = .next t := by
  obtain ⟨u, hu⟩ := succeeds_ok (x := small.ringWriteBlock) (by decide +kernel)
  obtain ⟨t, ht⟩ := goesOn_next (o := exec .process small) (by decide +kernel)
  exact ⟨by decide +kernel, u, t, hu, ht⟩

theorem witness_ReadsStayInRange :
    small.engineLegal ∧ small.cursorLegal ∧ small.prepared = true ∧ small.capacityEnough ∧ ∃ t, exec .process small = .next t :=
  ⟨small_engineLegal, by decide +kernel, by decide +kernel, by decide +kernel, goesOn_next (by decide +kernel)⟩

/-- A PREPARE at the edges of its operands; and, in the prepared state, a host access while an RB_CONFIGURE is in flight, an
RB_CONFIGURE that aborts, and another command. -/
theorem witness_CapacityHoldsUntilConfigured :
    (let s := fly small 1#32 192000#32 2048#32
     s.engineLegal ∧ 8000 ≤ s.operand0.toNat ∧ s.operand0.toNat ≤ 192000 ∧ 1 ≤ s.operand1.toNat ∧ s.operand1.toNat ≤ 2048) ∧
    prepared.preparedRange ∧
    (let s := coming (fly prepared 0x20#32 4#32 2#32) (.access (.write 0x014 4 0#32))
     s.preparedRange ∧ (∃ t, step s = .next t) ∧ ¬ s.configures ∧ s.inputs = .access (.write 0x014 4 0#32) :: []) ∧
    (let s := fly prepared 0x20#32 0#32 2#32; s.preparedRange ∧ (∃ t, step s = .next t) ∧ ¬ s.configures ∧ s.inputs = []) :=
  have h : prepared.preparedRange := ⟨prepared_engineLegal, by decide +kernel, by decide +kernel, by decide +kernel,
    by decide +kernel, by decide +kernel⟩
  ⟨⟨small_engineLegal, by decide +kernel⟩, h, ⟨h, goesOn_next (by decide +kernel), by decide +kernel, by decide +kernel⟩,
    ⟨h, goesOn_next (by decide +kernel), by decide +kernel, by decide +kernel⟩⟩

theorem witness_SilenceInSilenceOut :
    silent.memoryLegal ∧ silent.engineLegal ∧ silent.prepared = true ∧ silent.cap ≠ 0#32 ∧
    (∀ ch, ch < silent.params.nch → ∀ n, n < silent.blksz.toNat → (silent.ioMem ch).read n = some 0#32) ∧
    (∀ ch, ch < silent.params.nch → ∀ i, i < silent.cap.toNat → (silent.ringMem ch).read i = some 0#32) :=
  ⟨by decide +kernel, silent_engineLegal, by decide +kernel, by decide +kernel, by decide +kernel, by decide +kernel⟩

/-- `small` but for another channel's block, and RESULT. -/
def smallOther : State := (small.ioWrite 0 1 0x40400000#32).setResult 1#32

theorem witness_ChannelsAreIndependent :
    (small.memoryLegal ∧ smallOther.memoryLegal) ∧ (small.params = smallOther.params ∧ 1 < small.params.nch ∧
      small.winSamp = smallOther.winSamp ∧ small.blksz = smallOther.blksz ∧ small.wptr = smallOther.wptr) ∧
    (small.cap = smallOther.cap ∧ small.sr = smallOther.sr ∧ small.cap ≠ 0#32 ∧ small.prepared = true ∧
      smallOther.prepared = true ∧ small ≠ smallOther) ∧
    ((∀ n, n < small.blksz.toNat → (small.ioMem 1).read n = (smallOther.ioMem 1).read n) ∧
      (∀ i, i < small.cap.toNat → (small.ringMem 1).read i = (smallOther.ringMem 1).read i) ∧
      (∀ v, v < small.params.nvoice → (small.osc v 1).phase = (smallOther.osc v 1).phase ∧
        (small.osc v 1).freq = (smallOther.osc v 1).freq)) ∧
    (∃ t, exec .process small = .next t) ∧ ∃ t, exec .process smallOther = .next t :=
  ⟨⟨by decide +kernel, by decide +kernel⟩, by decide +kernel, by decide +kernel, by decide +kernel, goesOn_next (by decide +kernel),
    goesOn_next (by decide +kernel)⟩

/-- With nothing in flight and with a reserved OP in flight; another event follows the read. -/
theorem witness_RegisterMapReads :
    (let s := coming small (.access (.read 0x344 4))
     s.rst = false ∧ s.inflightCommand = none ∧ 0x344 % 4 = 0 ∧ 0x344 < 0x10000 ∧ s.inputs = .access (.read 0x344 4) :: []) ∧
    (let s := { fly small 0xFF#32 0#32 0#32 with inputs := [.access (.read 0x004 4), .turn] }
     s.rst = false ∧ s.inflightCommand = none ∧ s.inputs = .access (.read 0x004 4) :: [.turn]) := by decide +kernel

theorem witness_IoWindowLittleEndian :
    1 < small.params.nch ∧ 0 < 2048 ∧ 3 < 4 ∧ (small.ioMem 1).read 0 = some 0x3F800000#32 := by decide +kernel

/-- The write and read; a defined and an undefined cell; and a channel the instance lacks, while a PROCESS is in flight. -/
theorem witness_IoBufferWriteThenRead :
    let off := 0x10000 + 4 * (2048 * 1 + 2047)
    (let s := { small with inputs := [.access (.write off 4 5#32), .access (.read off 4)] }
     s.memoryLegal ∧ s.rst = false ∧ s.ioBusy = false ∧ 1 < s.params.nch ∧ 2047 < 2048 ∧
     s.inputs = .access (.write off 4 5#32) :: .access (.read off 4) :: []) ∧
    (let s := coming small (.access (.read off 4)); s.ioBusy = false ∧ (s.ioMem 1).read 2047 = none ∧
      (s.ioMem 1).read 0 = some 0x3F800000#32 ∧ s.inputs = .access (.read off 4) :: []) ∧
    (let s := coming (fly small 0x04#32 0#32 0#32) (.access (.read 0x14000 4))
     s.rst = false ∧ s.params.nch ≤ 2 ∧ 2 < 8 ∧ 0x14000 = 0x10000 + 4 * (2048 * 2 + 0) ∧
     s.inputs = .access (.read 0x14000 4) :: []) := by decide +kernel

theorem witness_MalformedAccessErrsOnly :
    let s := coming small (.access (.read 0x006 4))
    let s' := coming small (.access (.write 0x012 2 1#32))
    s.rst = false ∧ 0x006 % 4 ≠ 0 ∧ s.inputs = .access (.read 0x006 4) :: [] ∧ s'.rst = false ∧ 2 ≠ 4 ∧
    s'.inputs = .access (.write 0x012 2 1#32) :: [] := by decide +kernel

/-- A FIFO with one place left, and a full one. -/
theorem witness_CmdWriteEnqueues :
    let e : Entry := { word := 0#32, a0 := 0#32, a1 := 0#32 }
    let s := coming { small with fifo := [e, e, e] } (.access (.write 0x010 4 5#32))
    let s' := coming { small with fifo := [e, e, e, e] } (.access (.write 0x010 4 5#32))
    s.rst = false ∧ s.inputs = .access (.write 0x010 4 5#32) :: [] ∧ s.fifo.length < s.params.qdepth ∧
    s'.rst = false ∧ s'.inputs = .access (.write 0x010 4 5#32) :: [] ∧ s'.params.qdepth ≤ s'.fifo.length := by decide +kernel

theorem witness_SingleWriteFormsEnqueue :
    let s := coming small (.access (.write (0x0A0 + 4 * 3) 4 5#32))
    let s' := coming small (.access (.write 0x0B0 4 5#32))
    s.rst = false ∧ 3 < 4 ∧ s.inputs = .access (.write (0x0A0 + 4 * 3) 4 5#32) :: [] ∧ s'.rst = false ∧
    s'.inputs = .access (.write 0x0B0 4 5#32) :: [] := by decide +kernel

theorem witness_RegisterWrites :
    small.rst = false ∧
    ([0x004, 0x008, 0x00C, 0x014, 0x018, 0x0FFFC].all fun off =>
      off % 4 == 0 && decide (off < 0x10000) &&
        decide ((coming small (.access (.write off 4 5#32))).inputs = .access (.write off 4 5#32) :: [])) = true ∧
    0x0FFFC ∉ [0x004, 0x008, 0x00C, 0x010, 0x014, 0x018, 0x0A0, 0x0A4, 0x0A8, 0x0AC, 0x0B0] := by decide +kernel

/-- A register while a command is in flight, and the last I/O cell with none. -/
theorem witness_HostReadsHaveNoEffect :
    let s := coming (fly small 0x04#32 0#32 0#32) (.access (.read 0x030 4))
    let s' := coming small (.access (.read 0x1FFFC 4))
    s.rst = false ∧ 0x030 % 4 = 0 ∧ 0x030 < 0x20000 ∧ s.inputs = .access (.read 0x030 4) :: [] ∧ 0x030 < 0x10000 ∧
    s'.rst = false ∧ 0x1FFFC % 4 = 0 ∧ 0x1FFFC < 0x20000 ∧ s'.inputs = .access (.read 0x1FFFC 4) :: [] ∧ s'.ioBusy = false := by
  decide +kernel

theorem witness_IoConflictRecorded :
    let off := 0x10000 + 4 * (2048 * 1 + 2047)
    let s := coming (fly small 0x04#32 0#32 0#32) (.access (.write off 4 5#32))
    let s' := coming (fly small 0x22#32 0#32 0#32) (.access (.read off 4))
    s.rst = false ∧ 1 < s.params.nch ∧ 2047 < 2048 ∧ s.inflightCommand = some .process ∧
    s.inputs = .access (.write off 4 5#32) :: [] ∧ s'.rst = false ∧ s'.inflightCommand = some .rbWrite ∧
    s'.inputs = .access (.read off 4) :: [] := by decide +kernel

/-- OSC_NEXT v2, ch1 in flight: the last slot of its write set, and STATUS, which is in none. -/
theorem witness_WriteSetUnsettledInFlight :
    let s := coming (fly small 0x1214#32 0#32 0#32) (.access (.read 0x144 4))
    s.rst = false ∧ s.inflightCommand = some (.oscNext 2 1) ∧ 0x144 % 4 = 0 ∧ 0x144 < 0x10000 ∧
    s.inputs = .access (.read 0x144 4) :: [] ∧ 0x144 ∈ writeSetOffsets s.params (.oscNext 2 1) ∧
    0x004 ∉ writeSetOffsets s.params (.oscNext 2 1) ∧ 0x04C ∉ writeSetOffsets s.params (.oscNext 2 1) := by decide +kernel

theorem witness_FirstErrorIsKept :
    let s := fly { small with errinfo := 0x00000501#32 } 0x05#32 0#32 0#32
    (∃ t, step s = .next t) ∧ s.errinfo.toNat % 256 ≠ 0 ∧ s.inputs = [] :=
  ⟨goesOn_next (by decide +kernel), by decide +kernel, by decide +kernel⟩

theorem witness_OnlyHostClearsStatus :
    let s := coming { small with sticky := 0x00000030#32 } (.access (.write 0x004 4 0x00000010#32))
    (∃ t, step s = .next t) ∧ s.sticky.getLsbD 5 = true ∧ (0x00000010#32).getLsbD 5 = false :=
  ⟨goesOn_next (by decide +kernel), by decide +kernel, by decide +kernel⟩

theorem witness_OnlyPrepareSetsRate :
    let s := fly State.reset 1#32 8000#32 1#32
    (∃ t, step s = .next t) ∧ (after s).sr ≠ s.sr ∧ (after s).prepared ≠ s.prepared :=
  ⟨goesOn_next (by decide +kernel), by decide +kernel, by decide +kernel⟩

theorem witness_CanonicalMemoryIsUnique :
    let m : Memory := { filled := 2, cells := [(0, 1#32), (3, 0#32)] }
    m.wf ∧ m.wf ∧ ∀ i, m.read i = m.read i := ⟨by decide, by decide, fun _ => rfl⟩

theorem witness_MemoryFormKept :
    let s := fly small 0x04#32 0#32 0#32
    s.memoryLegal ∧ s.cursorLegal ∧ ∃ t, step s = .next t :=
  ⟨by decide +kernel, by decide +kernel, goesOn_next (by decide +kernel)⟩

theorem witness_CursorAndControlKept :
    let s := fly small 0x22#32 0#32 0#32
    s.cursorLegal ∧ s.controlLegal ∧ ∃ t, step s = .next t :=
  ⟨by decide +kernel, by decide +kernel, goesOn_next (by decide +kernel)⟩

theorem witness_PhasesStayInUnitInterval :
    let s := fly small 0x14#32 0#32 0#32
    s.engineLegal ∧ ∃ t, step s = .next t :=
  ⟨small_engineLegal, goesOn_next (by decide +kernel)⟩

theorem witness_DerivedRegistersFollow :
    let s := fly prepared 0x03#32 0x42C80000#32 0#32
    s.freqDerived ∧ s.windowDerived ∧ ∃ t, step s = .next t :=
  ⟨by decide +kernel, by decide +kernel, goesOn_next (by decide +kernel)⟩

end Sys2Proof.Tests
end

section
/-! SUPPORT. What a command can do when it executes, said once: it aborts, or it completes with the effect its rule gives. Claims about
every step go through `exec_cases` and `step_effects`. -/

namespace Sys2Proof.Machine

/-- The effect of a command that passes its checks, without its completion: it takes `s` to the last argument. The hypotheses are what
the checks of R251 leave of the operands and the state. -/
inductive CommandEffect (s : State) : Instr → State → Prop
  | nop : CommandEffect s .nop s
  | prepare (hlo : Config.srMin ≤ s.operand0.toNat) (hhi : s.operand0.toNat ≤ Config.srMax)
      (hblk : 1 ≤ s.operand1.toNat) (hblk' : s.operand1.toNat ≤ Config.blockMax)
      (hcap : capacityFor s.operand0.toNat ≤ Config.capMax)
      (hwin : s.operand1.toNat + 2 * windowSamples Config.winMax s.operand0.toNat ≤ capacityFor s.operand0.toNat) :
      CommandEffect s .prepare (s.prepareWith s.operand0.toNat s.operand1.toNat)
  | setTranspo (v : Fin 16) (c : Word) (t : State) (hv : v.val < s.params.nvoice) (hx : isNaN s.operand0 = false)
      (hc : c = clamp s.operand0 Config.trMin Config.trMax) (ht : t = s.noteClamp s.operand0 c) :
      CommandEffect s (.setTranspo v) ((t.setVoice v { t.voice v with transpo := c }).voiceFreqUpdate v)
  | setWindow (c : Word) (hx : isNaN s.operand0 = false) (hc : c = clamp s.operand0 Config.winMin Config.winMax) :
      CommandEffect s .setWindow { s.noteClamp s.operand0 c with winMs := c, winSamp := s.newWinSamp c }.allFreqUpdate
  | process (u : State) (hp : s.prepared = true) (hu : s.processBlock (sourceOf (encode .process)) = .ok u) :
      CommandEffect s .process u
  | oscInit (v ch : Fin 16) (hv : v.val < s.params.nvoice) (hch : ch.val < s.params.nch) :
      CommandEffect s (.oscInit v ch) (s.zeroPhase v ch)
  | oscSetFreq (v ch : Fin 16) (hv : v.val < s.params.nvoice) (hch : ch.val < s.params.nch)
      (hx : isFinite s.operand0 = true) : CommandEffect s (.oscSetFreq v ch) (s.setOscFreq v s.operand0 ch)
  | oscSetType (v ch : Fin 16) (hv : v.val < s.params.nvoice) (hch : ch.val < s.params.nch) :
      CommandEffect s (.oscSetType v ch) (s.setOsc v ch { s.osc v ch with type := 0#2 })
  | oscSetDebug (v ch : Fin 16) (hv : v.val < s.params.nvoice) (hch : ch.val < s.params.nch) :
      CommandEffect s (.oscSetDebug v ch) (s.setOsc v ch { s.osc v ch with debug := u32 s.operand0 == 1 })
  | oscNext (v ch : Fin 16) (hv : v.val < s.params.nvoice) (hch : ch.val < s.params.nch) (hp : s.prepared = true) :
      CommandEffect s (.oscNext v ch) ((s.oscAdvance v ch).setResult (s.osc v ch).phase)
  | rbConfigure (hcap : 1 ≤ s.operand0.toNat) (hcap' : s.operand0.toNat ≤ Config.capMax)
      (hblk : s.operand1.toNat ≤ Config.blockMax) :
      CommandEffect s .rbConfigure { s with cap := s.operand0, blksz := s.operand1, wptr := 0#32 }
  | rbInit (hcap : 1 ≤ s.cap.toNat) : CommandEffect s .rbInit { s.ringClear s.cap.toNat with wptr := 0#32 }
  | rbWrite (u : State) (hcap : 1 ≤ s.cap.toNat) (hu : s.ringWriteBlock = .ok u) : CommandEffect s .rbWrite u
  | rbRead (ch : Fin 16) (src : ErrSource) (n : Int) (d : Word) (r : State × Word) (hch : ch.val < s.params.nch)
      (hsrc : src = sourceOf (encode (.rbRead ch))) (hr : s.ringReadInterp src ch n d = .ok r) :
      CommandEffect s (.rbRead ch) (r.1.setResult r.2)
  | cvtS2n (x : Word) : CommandEffect s .cvtS2n (s.setResult x)
  | cvtT2f (x : Word) : CommandEffect s .cvtT2f (s.setResult x)

theorem voice_lt_four {p : Params} {v : Nat} (h : v < p.nvoice) : v < 4 := lt_of_lt_of_le h p.nvoice_range.2

theorem channel_lt_eight {p : Params} {ch : Nat} (h : ch < p.nch) : ch < 8 := lt_of_lt_of_le h p.nch_range.2

/-- The command goes on by aborting, or with its effect. -/
abbrev AbortsOrEffect (i : Instr) (s t : State) : Prop :=
  (∃ c w, t = s.abort c (sourceOf w)) ∨ ∃ u, CommandEffect s i u ∧ t = u.complete

theorem raise_cases {i j : Instr} {c : ErrCode} {s t : State} (h : raise j c s = .next t) : AbortsOrEffect i s t :=
  .inl ⟨c, encode j, (raise_eq_next.1 h).symm⟩

theorem finish_cases {i : Instr} {s u t : State} (hu : CommandEffect s i u) (h : finish u = .next t) : AbortsOrEffect i s t :=
  .inr ⟨u, hu, (finish_eq_next.1 h).symm⟩

/-- The indices of a legal command that uses a voice and a channel are those of an oscillator there is (R93). -/
theorem wellFormed_oscillator {p : Params} {i : Instr} {v ch : Fin 16} (hv : i.voice? = some v.val)
    (hch : i.channel? = some ch.val) (h : i.wellFormed p = true) : v.val < p.nvoice ∧ ch.val < p.nch := by
  simpa [Instr.wellFormed, Instr.voiceLegal, Instr.channelLegal, hv, hch] using h

theorem execPrepare_cases {s t : State} (h : execPrepare s = .next t) : AbortsOrEffect .prepare s t := by
  simp only [execPrepare] at h
  split_ifs at h with h1 h2 h3
  · exact raise_cases h
  · exact raise_cases h
  · exact raise_cases h
  · simp only [u32] at h1 h2 h3
    exact finish_cases (.prepare (by omega) (by omega) (by omega) (by omega) (by omega) (by omega)) h

theorem execSetTranspo_cases {v : Fin 16} {s t : State} (h : execSetTranspo v s = .next t) :
    AbortsOrEffect (.setTranspo v) s t := by
  simp only [execSetTranspo] at h
  split_ifs at h with hw hx
  · exact raise_cases h
  · have hv : v.val < s.params.nvoice := by
      simpa [Instr.wellFormed, Instr.voiceLegal, Instr.channelLegal, Instr.voice?, Instr.channel?] using hw
    exact finish_cases (.setTranspo v _ _ hv (by simpa using hx) rfl rfl) h
  · exact raise_cases h

theorem execSetWindow_cases {s t : State} (h : execSetWindow s = .next t) : AbortsOrEffect .setWindow s t := by
  simp only [execSetWindow] at h
  split_ifs at h with hx
  · exact raise_cases h
  · exact finish_cases (.setWindow _ (by simpa using hx) rfl) h

theorem execProcess_cases {s t : State} (h : execProcess s = .next t) : AbortsOrEffect .process s t := by
  simp only [execProcess] at h
  split_ifs at h with hp
  · obtain ⟨u, hu, rfl⟩ := finishE_eq_next.1 h
    exact .inr ⟨u, .process u hp hu, rfl⟩
  · exact raise_cases h

theorem execOscInit_cases {v ch : Fin 16} {s t : State} (h : execOscInit v ch s = .next t) :
    AbortsOrEffect (.oscInit v ch) s t := by
  simp only [execOscInit] at h
  split_ifs at h with hw
  · obtain ⟨hv, hch⟩ := wellFormed_oscillator rfl rfl hw
    exact finish_cases (.oscInit v ch hv hch) h
  · exact raise_cases h

theorem execOscSetFreq_cases {v ch : Fin 16} {s t : State} (h : execOscSetFreq v ch s = .next t) :
    AbortsOrEffect (.oscSetFreq v ch) s t := by
  simp only [execOscSetFreq] at h
  split_ifs at h with hw hx
  · obtain ⟨hv, hch⟩ := wellFormed_oscillator rfl rfl hw
    exact finish_cases (.oscSetFreq v ch hv hch hx) h
  · exact raise_cases h
  · exact raise_cases h

theorem execOscSetType_cases {v ch : Fin 16} {s t : State} (h : execOscSetType v ch s = .next t) :
    AbortsOrEffect (.oscSetType v ch) s t := by
  simp only [execOscSetType] at h
  split_ifs at h with hw hx
  · obtain ⟨hv, hch⟩ := wellFormed_oscillator rfl rfl hw
    exact finish_cases (.oscSetType v ch hv hch) h
  · exact raise_cases h
  · exact raise_cases h

theorem execOscSetDebug_cases {v ch : Fin 16} {s t : State} (h : execOscSetDebug v ch s = .next t) :
    AbortsOrEffect (.oscSetDebug v ch) s t := by
  simp only [execOscSetDebug] at h
  split_ifs at h with hw hx
  · obtain ⟨hv, hch⟩ := wellFormed_oscillator rfl rfl hw
    exact finish_cases (.oscSetDebug v ch hv hch) h
  · exact raise_cases h
  · exact raise_cases h

theorem execOscNext_cases {v ch : Fin 16} {s t : State} (h : execOscNext v ch s = .next t) :
    AbortsOrEffect (.oscNext v ch) s t := by
  simp only [execOscNext] at h
  split_ifs at h with hw hp
  · obtain ⟨hv, hch⟩ := wellFormed_oscillator rfl rfl hw
    exact finish_cases (.oscNext v ch hv hch hp) h
  · exact raise_cases h
  · exact raise_cases h

theorem execRbConfigure_cases {s t : State} (h : execRbConfigure s = .next t) : AbortsOrEffect .rbConfigure s t := by
  simp only [execRbConfigure] at h
  split_ifs at h with h1 h2
  · exact raise_cases h
  · exact raise_cases h
  · simp only [u32, w32, BitVec.ofNat_toNat, BitVec.setWidth_eq] at h h1 h2
    exact finish_cases (.rbConfigure (by omega) (by omega) (by omega)) h

theorem execRbInit_cases {s t : State} (h : execRbInit s = .next t) : AbortsOrEffect .rbInit s t := by
  simp only [execRbInit] at h
  split_ifs at h
  · exact raise_cases h
  · exact finish_cases (.rbInit (by omega)) h

theorem execRbWrite_cases {s t : State} (h : execRbWrite s = .next t) : AbortsOrEffect .rbWrite s t := by
  simp only [execRbWrite] at h
  split_ifs at h
  · exact raise_cases h
  · obtain ⟨u, hu, rfl⟩ := finishE_eq_next.1 h
    exact .inr ⟨u, .rbWrite u (by omega) hu, rfl⟩

theorem execRbRead_cases {ch : Fin 16} {s t : State} (h : execRbRead ch s = .next t) : AbortsOrEffect (.rbRead ch) s t := by
  simp only [execRbRead] at h
  split_ifs at h with hw
  · exact raise_cases h
  · obtain ⟨u, hu, rfl⟩ := finishE_eq_next.1 h
    obtain ⟨r, hr, hu⟩ := andThen_eq_ok.1 hu
    cases hu
    have hch : ch.val < s.params.nch := by
      simpa [Instr.wellFormed, Instr.voiceLegal, Instr.channelLegal, Instr.voice?, Instr.channel?] using hw
    exact .inr ⟨_, .rbRead ch _ _ _ r hch rfl hr, rfl⟩
  · exact raise_cases h

theorem execCvtS2n_cases {s t : State} (h : execCvtS2n s = .next t) : AbortsOrEffect .cvtS2n s t := by
  simp only [execCvtS2n] at h
  split_ifs at h
  · exact raise_cases h
  · exact raise_cases h
  · exact raise_cases h
  · exact raise_cases h
  · exact finish_cases (.cvtS2n _) h

/-- A command that goes on aborts, or completes with its effect. -/
theorem exec_cases {i : Instr} {s t : State} (h : exec i s = .next t) : AbortsOrEffect i s t := by
  cases i with
  | nop => exact finish_cases .nop h
  | prepare => exact execPrepare_cases h
  | setTranspo v => exact execSetTranspo_cases h
  | setWindow => exact execSetWindow_cases h
  | process => exact execProcess_cases h
  | oscInit v ch => exact execOscInit_cases h
  | oscSetFreq v ch => exact execOscSetFreq_cases h
  | oscSetType v ch => exact execOscSetType_cases h
  | oscSetDebug v ch => exact execOscSetDebug_cases h
  | oscNext v ch => exact execOscNext_cases h
  | rbConfigure => exact execRbConfigure_cases h
  | rbInit => exact execRbInit_cases h
  | rbWrite => exact execRbWrite_cases h
  | rbRead ch => exact execRbRead_cases h
  | cvtS2n => exact execCvtS2n_cases h
  | cvtT2f => exact finish_cases (.cvtT2f _) h

end Sys2Proof.Machine
end

section
/-! SUPPORT. What the steps leave unchanged: the block's side of the state, and what is recorded of errors and completions. -/

namespace Sys2Proof.Machine

/-! ## The block's side -/

/-- The part of the state that only commands and a reset change is that of `s`. -/
structure SameBlock (s t : State) : Prop where
  params : t.params = s.params
  prepared : t.prepared = s.prepared
  sr : t.sr = s.sr
  blksz : t.blksz = s.blksz
  cap : t.cap = s.cap
  wptr : t.wptr = s.wptr
  winMs : t.winMs = s.winMs
  winSamp : t.winSamp = s.winSamp
  voices : t.voices = s.voices
  oscs : t.oscs = s.oscs
  ring : t.ring = s.ring

theorem SameBlock.refl (s : State) : SameBlock s s := by constructor <;> rfl

theorem SameBlock.voice {s t : State} (h : SameBlock s t) (v : Nat) : t.voice v = s.voice v := by
  simp only [State.voice, h.voices]

theorem SameBlock.osc {s t : State} (h : SameBlock s t) (v ch : Nat) : t.osc v ch = s.osc v ch := by
  simp only [State.osc, h.oscs]

theorem complete_sameBlock (s : State) : SameBlock s s.complete := by constructor <;> rfl

theorem abort_sameBlock (c : ErrCode) (src : ErrSource) (s : State) : SameBlock s (s.abort c src) := by constructor <;> rfl

/-! ## Sources of errors -/

/-- The fields of an error's source fit those of ERRINFO (R25). -/
def ErrSource.fits (src : ErrSource) : Prop := src.op < 256 ∧ src.v < 16 ∧ src.ch < 16

theorem sourceOf_fits (w : Word) : (sourceOf w).fits := ⟨Nat.mod_lt _ (by norm_num), (vField w).isLt, (chField w).isLt⟩

theorem busSource_fits : busSource.fits := by simp [busSource, ErrSource.fits]

theorem errNumber_lt (c : ErrCode) : errNumber c < 10 := by cases c <;> decide

/-- ERRINFO's bits 31:24 stay 0 (R25). -/
theorem errWord_lt (c : ErrCode) {src : ErrSource} (h : src.fits) : (errWord c src).toNat < 2 ^ 24 := by
  obtain ⟨hop, hv, hch⟩ := h
  have := errNumber_lt c
  simp only [errWord, BitVec.toNat_ofNat]
  omega

/-! ## What is recorded -/

/-- From `s` to `t` no more is recorded than STATUS bits set, all of them write-1-to-clear, and an ERRINFO captured where there was none
(R23, R25). -/
structure Records (s t : State) : Prop where
  sticky : ∃ m, m &&& ~~~w1cMask = 0#32 ∧ t.sticky = s.sticky ||| m
  errinfo : t.errinfo = s.errinfo ∨ errCodeOf s.errinfo = 0 ∧ t.errinfo.toNat < 2 ^ 24

namespace Records

theorem of_eq {s t : State} (hst : t.sticky = s.sticky) (herr : t.errinfo = s.errinfo) : Records s t :=
  ⟨⟨0#32, by simp, by simp [hst]⟩, .inl herr⟩

theorem refl (s : State) : Records s s := of_eq rfl rfl

theorem trans {s t u : State} (h : Records s t) (h' : Records t u) : Records s u := by
  obtain ⟨⟨m, hm, hst⟩, herr⟩ := h
  obtain ⟨⟨m', hm', hst'⟩, herr'⟩ := h'
  refine ⟨⟨m ||| m', by rw [BitVec.and_or_distrib_right, hm, hm']; rfl, by rw [hst', hst, BitVec.or_assoc]⟩, ?_⟩
  rcases herr with herr | ⟨h0, hlt⟩
  · rw [← herr]; exact herr'
  · exact .inr ⟨h0, by rcases herr' with h' | ⟨-, h'⟩ <;> simp_all⟩

theorem setSticky (s : State) {m : Word} (hm : m &&& ~~~w1cMask = 0#32) : Records s (s.setSticky m) := ⟨⟨m, hm, rfl⟩, .inl rfl⟩

theorem recordError (c : ErrCode) {src : ErrSource} (h : src.fits) (s : State) : Records s (s.recordError c src) := by
  refine ⟨⟨errBit c, by cases c <;> decide, rfl⟩, ?_⟩
  by_cases h0 : errCodeOf s.errinfo = 0
  · exact .inr ⟨h0, by rw [State.recordError_errinfo, if_pos h0]; exact errWord_lt c h⟩
  · exact .inl (by rw [State.recordError_errinfo, if_neg h0])

theorem complete (s : State) : Records s s.complete := ⟨⟨cmdDoneBit, by decide, rfl⟩, .inl rfl⟩

theorem abort (c : ErrCode) {src : ErrSource} (h : src.fits) (s : State) : Records s (s.abort c src) :=
  (recordError c h s).trans (complete _)

end Records

end Sys2Proof.Machine
end

section
/-! SUPPORT. What the composite operations of the commands keep: the samples of a PROCESS, the frame of each command's effect, and what it
records. -/

namespace Sys2Proof.Machine

/-! ## What an oscillator step and an out-of-range read keep, the samples of a block keep (R219, R220) -/

section

variable {P : State → Prop} {src : ErrSource}

theorem ringReadInterp_keeps (herr : ∀ t, P t → P (t.recordError .readRange src)) {ch : Nat} {n : Int} {d : Word} {s : State}
    {r : State × Word} (hs : P s) (h : s.ringReadInterp src ch n d = .ok r) : P r.1 := by
  rcases State.ringReadInterp_cases h with ⟨-, h1, -⟩ | ⟨-, h1⟩
  · rw [h1]; exact hs
  · rw [h1]; exact herr s hs

variable (hadv : ∀ t v ch, v < 4 → ch < 8 → P t → P (t.oscAdvance v ch)) (herr : ∀ t, P t → P (t.recordError .readRange src))

include hadv herr

theorem voiceTap_keeps {v ch n : Nat} (hv : v < 4) (hch : ch < 8) {s : State} {r : State × Word} (hs : P s)
    (h : s.voiceTap src v ch n = .ok r) : P r.1 := by
  obtain ⟨ra, ha, h⟩ := andThen_eq_ok.1 h
  obtain ⟨rb, hb, h⟩ := andThen_eq_ok.1 h
  cases h
  exact ringReadInterp_keeps (r := rb) herr (ringReadInterp_keeps herr (hadv s v ch hv hch hs) ha) hb

theorem outSample_keeps {ch n : Nat} (hch : ch < 8) {s : State} {r : State × Word} (hs : P s)
    (h : s.outSample src ch n = .ok r) : P r.1 := by
  refine loopE_induct (fun _ x => P x.1) hs (fun v x y hv hx hy => ?_) h
  obtain ⟨a, ha, hy⟩ := andThen_eq_ok.1 hy
  cases hy
  have hv4 : v < 4 := voice_lt_four hv
  exact voiceTap_keeps (r := a) hadv herr hv4 hch hx ha

theorem outChannel_keeps {ch : Nat} (hch : ch < 8) {s : State} {r : State × List Word} (hs : P s)
    (h : s.outChannel src ch = .ok r) : P r.1 := by
  refine loopE_induct (fun _ x => P x.1) hs (fun n x y _ hx hy => ?_) h
  obtain ⟨a, ha, hy⟩ := andThen_eq_ok.1 hy
  cases hy
  exact outSample_keeps (r := a) hadv herr hch hx ha

theorem outBlock_keeps {s : State} {r : State × List (List Word)} (hs : P s) (h : s.outBlock src = .ok r) : P r.1 := by
  refine loopE_induct (fun _ x => P x.1) hs (fun ch x y hch hx hy => ?_) h
  obtain ⟨a, ha, hy⟩ := andThen_eq_ok.1 hy
  cases hy
  have hch8 : ch < 8 := channel_lt_eight hch
  exact outChannel_keeps (r := a) hadv herr hch8 hx ha

end

/-! ## Frames -/

namespace State

/-- Noting a clamp changes STATUS only. -/
theorem noteClamp_frame (x c : Word) (s : State) : s.noteClamp x c = { s with sticky := (s.noteClamp x c).sticky } := by
  unfold noteClamp
  split_ifs <;> rfl

/-- What PREPARE changes, beside the voices, the oscillators and the ring (R212). -/
theorem prepareWith_frame (sr blk : Nat) (s : State) :
    s.prepareWith sr blk =
      { s with
        sr := w32 sr, cap := w32 (capacityFor sr), blksz := w32 blk, wptr := 0#32
        winSamp := w32 (windowSamples s.winMs sr), blkcnt := 0#32, prepared := true
        voices := (s.prepareWith sr blk).voices, oscs := (s.prepareWith sr blk).oscs, ring := (s.prepareWith sr blk).ring } := by
  unfold prepareWith
  simp only
  rw [allFreqUpdate_frame, zeroPhases_frame, ringClear_frame]

end State

/-- A command's effect leaves the host's side of the state and the in-flight slot as they are (R67, R72). -/
theorem effect_hostSide {s u : State} {i : Instr} (h : CommandEffect s i u) :
    s.hostSideSame u ∧ u.inflight = s.inflight := by
  cases h with
  | prepare => rw [State.prepareWith_frame]; simp [State.hostSideSame]
  | setTranspo v c t hv hx hc ht => rw [State.voiceFreqUpdate_frame, ht, State.noteClamp_frame]; simp [State.hostSideSame]
  | setWindow c => rw [State.allFreqUpdate_frame, State.noteClamp_frame]; simp [State.hostSideSame]
  | process _ hp hu => rw [State.processBlock_frame hu]; simp [State.hostSideSame]
  | rbInit => rw [State.ringClear_frame]; simp [State.hostSideSame]
  | rbWrite _ hcap hu => rw [State.ringWriteBlock_frame hu]; simp [State.hostSideSame]
  | rbRead ch src n d r hch hsrc hr => rw [State.ringReadInterp_frame hr]; simp [State.hostSideSame]
  | nop | oscInit | oscSetFreq | oscSetType | oscSetDebug | oscNext | rbConfigure | cvtS2n | cvtT2f => simp [State.hostSideSame]

/-! ## What each effect records -/

theorem noteClamp_records (x c : Word) (s : State) : Records s (s.noteClamp x c) := by
  unfold State.noteClamp
  split_ifs
  · exact .refl s
  · exact .setSticky s (by decide)

theorem outBlock_records {src : ErrSource} (hsrc : src.fits) {s : State} {r : State × List (List Word)}
    (h : s.outBlock src = .ok r) : Records s r.1 :=
  outBlock_keeps (P := Records s) (fun _ _ _ _ _ ht => ht.trans (.of_eq rfl rfl))
    (fun t ht => ht.trans (.recordError _ hsrc t)) (.refl s) h

theorem processBlock_records {src : ErrSource} (hsrc : src.fits) {s u : State} (h : s.processBlock src = .ok u) :
    Records s u := by
  obtain ⟨t, ht, h⟩ := andThen_eq_ok.1 h
  obtain ⟨r, hr, h⟩ := andThen_eq_ok.1 h
  cases h
  have hring : Records s t := by rw [State.ringWriteBlock_frame ht]; exact .of_eq rfl rfl
  have hwrite : Records r.1 (r.1.writeBlock r.2) := by rw [State.writeBlock_frame]; exact .of_eq rfl rfl
  have hcount : Records s { r.1.writeBlock r.2 with blkcnt := w32 ((r.1.writeBlock r.2).blkcnt.toNat + 1) } :=
    (hring.trans (outBlock_records hsrc hr)).trans (hwrite.trans (.of_eq rfl rfl))
  exact hcount.trans (.setSticky _ (by decide))

/-- A command's effect records STATUS bits and errors only by setting them (R23, R25). -/
theorem effect_records {s u : State} {i : Instr} (h : CommandEffect s i u) : Records s u := by
  cases h with
  | prepare => rw [State.prepareWith_frame]; exact .of_eq rfl rfl
  | setTranspo v c t hv hx hc ht =>
    have hn : Records s t := by rw [ht]; exact noteClamp_records _ _ s
    rw [State.voiceFreqUpdate_frame]
    exact hn.trans (.of_eq rfl rfl)
  | setWindow c =>
    rw [State.allFreqUpdate_frame]
    exact (noteClamp_records s.operand0 c s).trans (.of_eq rfl rfl)
  | process _ hp hu => exact processBlock_records (sourceOf_fits _) hu
  | rbInit => rw [State.ringClear_frame]; exact .of_eq rfl rfl
  | rbWrite _ hcap hu => rw [State.ringWriteBlock_frame hu]; exact .of_eq rfl rfl
  | rbRead ch src n d r hch hsrc hr =>
    have hread : Records s r.1 := ringReadInterp_keeps (P := Records s)
      (fun t ht => ht.trans (.recordError _ (hsrc ▸ sourceOf_fits _) t)) (.refl s) hr
    exact hread.trans (.of_eq rfl rfl)
  | nop | oscInit | oscSetFreq | oscSetType | oscSetDebug | oscNext | rbConfigure | cvtS2n | cvtT2f => exact .of_eq rfl rfl

end Sys2Proof.Machine
end

section
/-! SUPPORT. What a step can do beside a command's effect: host accesses, starts, aborts and RST, said once for the claims about every
step. -/

namespace Sys2Proof.Machine

/-! ## The register map -/

/-- The region of the register map an offset lies in, and the target there (R22). -/
inductive Region (off : Nat) (t : Target) : Prop
  | single (hhi : off < 0x080) (ht : t = singleTarget off)
  | transpo (hlo : 0x080 ≤ off) (hhi : off < 0x090) (ht : t = .transpo ((off - 0x080) / 4))
  | freq (hlo : 0x090 ≤ off) (hhi : off < 0x0A0) (ht : t = .freq ((off - 0x090) / 4))
  | qtranspo (hlo : 0x0A0 ≤ off) (hhi : off < 0x0B0) (ht : t = .qtranspo ((off - 0x0A0) / 4))
  | qwindow (ho : off = 0x0B0) (ht : t = .qwindow)
  | phase (hlo : 0x100 ≤ off) (hhi : off < 0x180) (ht : t = .phase ((off - 0x100) / 4 / 8) ((off - 0x100) / 4 % 8))
  | ofreq (hlo : 0x200 ≤ off) (hhi : off < 0x280) (ht : t = .ofreq ((off - 0x200) / 4 / 8) ((off - 0x200) / 4 % 8))
  | ocfg (hlo : 0x300 ≤ off) (hhi : off < 0x380) (ht : t = .ocfg ((off - 0x300) / 4 / 8) ((off - 0x300) / 4 % 8))
  | iobuf (hlo : Config.ioWindow ≤ off)
      (ht : t = .iobuf ((off - Config.ioWindow) / 4 / Config.blockMax) ((off - Config.ioWindow) / 4 % Config.blockMax))
  | reserved (ht : t = .reserved)

theorem targetOf_region (off : Nat) : Region off (targetOf off) := by
  unfold targetOf
  by_cases h : off < 0x080
  · rw [if_pos h]; exact .single h rfl
  rw [if_neg h]
  by_cases h : off < 0x090
  · rw [if_pos h]; exact .transpo (by omega) h rfl
  rw [if_neg h]
  by_cases h : off < 0x0A0
  · rw [if_pos h]; exact .freq (by omega) h rfl
  rw [if_neg h]
  by_cases h : off < 0x0B0
  · rw [if_pos h]; exact .qtranspo (by omega) h rfl
  rw [if_neg h]
  by_cases h : off = 0x0B0
  · rw [if_pos h]; exact .qwindow h rfl
  rw [if_neg h]
  by_cases h : off < 0x100
  · rw [if_pos h]; exact .reserved rfl
  rw [if_neg h]
  by_cases h : off < 0x180
  · rw [if_pos h]; exact .phase (by omega) h rfl
  rw [if_neg h]
  by_cases h : off < 0x200
  · rw [if_pos h]; exact .reserved rfl
  rw [if_neg h]
  by_cases h : off < 0x280
  · rw [if_pos h]; exact .ofreq (by omega) h rfl
  rw [if_neg h]
  by_cases h : off < 0x300
  · rw [if_pos h]; exact .reserved rfl
  rw [if_neg h]
  by_cases h : off < 0x380
  · rw [if_pos h]; exact .ocfg (by omega) h rfl
  rw [if_neg h]
  by_cases h : off < Config.ioWindow
  · rw [if_pos h]; exact .reserved rfl
  rw [if_neg h]
  exact .iobuf (by omega) rfl

theorem targetOf_eq_status {off : Nat} (h : targetOf off = .status) : off = 0x004 := by
  cases targetOf_region off with
  | single hhi ht =>
    rw [ht] at h
    unfold singleTarget at h
    split at h <;> cases h
    rfl
  | _ => simp_all

theorem targetOf_eq_errinfo {off : Nat} (h : targetOf off = .errinfo) : off = 0x008 := by
  cases targetOf_region off with
  | single hhi ht =>
    rw [ht] at h
    unfold singleTarget at h
    split at h <;> cases h
    rfl
  | _ => simp_all

/-- A cell of the I/O window lies below the channel stride (R62). -/
theorem targetOf_eq_iobuf {off ch n : Nat} (h : targetOf off = .iobuf ch n) : Config.ioWindow ≤ off ∧ n < Config.blockMax := by
  cases targetOf_region off with
  | single hhi ht =>
    rw [ht] at h
    unfold singleTarget at h
    split at h <;> cases h
  | iobuf hlo ht =>
    rw [ht] at h
    cases h
    exact ⟨hlo, Nat.mod_lt _ (by decide)⟩
  | _ => simp_all

/-! ## Host accesses -/

/-- What a legal host write to a target does (R67): `s` becomes the last argument. -/
inductive WriteEffect (s : State) (w : Word) : Target → State → Prop
  | nothing (t : Target) : WriteEffect s w t s
  | status : WriteEffect s w .status (s.clearSticky w)
  | errinfo : WriteEffect s w .errinfo s.clearErrinfo
  | irqen : WriteEffect s w .irqen (s.setIrqen w)
  | arg0 : WriteEffect s w .arg0 { s with arg0 := w }
  | arg1 : WriteEffect s w .arg1 { s with arg1 := w }
  | enqueued (t : Target) (e : Entry) (hfifo : s.fifo.length < s.params.qdepth) : WriteEffect s w t { s with fifo := s.fifo ++ [e] }
  | recorded (t : Target) (c : ErrCode) (src : ErrSource) (hsrc : src.fits) (hw : t ≠ .status) (he : t ≠ .errinfo) :
      WriteEffect s w t (s.recordError c src)
  | cell (ch n : Nat) (hch : ch < s.params.nch) : WriteEffect s w (.iobuf ch n) (s.ioWrite ch n w)

theorem enqueue_writeEffect (s : State) (w : Word) (e : Entry) {t : Target} (hw : t ≠ .status) (he : t ≠ .errinfo) :
    WriteEffect s w t (s.enqueue e) := by
  rcases State.enqueue_cases e s with ⟨hlt, h⟩ | ⟨-, h⟩
  · rw [h]; exact .enqueued t e hlt
  · rw [h]; exact .recorded t _ _ (sourceOf_fits _) hw he

/-- The effect of a legal host write is one of these (R67). -/
theorem writeEffect_cases (s : State) (w : Word) (t : Target) : WriteEffect s w t (s.writeEffect t w) := by
  cases t with
  | status => exact .status
  | errinfo => exact .errinfo
  | irqen => exact .irqen
  | arg0 => exact .arg0
  | arg1 => exact .arg1
  | cmd => exact enqueue_writeEffect s w _ (by simp) (by simp)
  | qwindow => exact enqueue_writeEffect s w _ (by simp) (by simp)
  | qtranspo v =>
    simp only [State.writeEffect]
    split_ifs
    · exact enqueue_writeEffect s w _ (by simp) (by simp)
    · exact .nothing _
  | iobuf ch n =>
    simp only [State.writeEffect, State.writeIobuf]
    split_ifs with hch
    · exact .nothing _
    · exact .recorded _ _ _ busSource_fits (by simp) (by simp)
    · exact .cell ch n (by omega)
  | ident | result | blkcnt | sr | blksz | cap | wptr | winMs | winSamp | outGain | hwcfg | capMax | qcount | transpo | freq
  | phase | ofreq | ocfg | reserved => exact .nothing _

/-- From `s` to `t` neither the block's side nor the host's registers and the I/O buffer change, nothing is enqueued, and STATUS and
ERRINFO only record. -/
structure QuietStep (s t : State) : Prop where
  block : SameBlock s t
  io : t.io = s.io
  irqen : t.irqen = s.irqen
  fifo : t.fifo.length ≤ s.fifo.length
  records : Records s t

theorem QuietStep.refl (s : State) : QuietStep s s := ⟨.refl s, rfl, rfl, le_rfl, .refl s⟩

theorem hostRead_quiet (off : Nat) (s : State) : QuietStep s (s.hostRead off) := by
  have hrec : Records s (s.hostRead off) := by
    unfold State.hostRead
    split
    · unfold State.readIobuf
      split_ifs
      · exact .of_eq rfl rfl
      · exact (Records.recordError .ioConflict busSource_fits s).trans (.of_eq rfl rfl)
      · split <;> exact .of_eq rfl rfl
    · split_ifs <;> exact .of_eq rfl rfl
  refine ⟨?_, ?_, ?_, ?_, hrec⟩ <;> rw [State.hostRead_frame]
  constructor <;> rfl

theorem badAccess_quiet (s : State) : QuietStep s s.badAccess :=
  ⟨by constructor <;> rfl, rfl, rfl, le_rfl, (Records.recordError .busFormat busSource_fits s).trans (.of_eq rfl rfl)⟩

theorem setResp_quiet (s : State) (r : Option Response) : QuietStep s { s with resp := r } :=
  ⟨by constructor <;> rfl, rfl, rfl, le_rfl, .of_eq rfl rfl⟩

/-- A host access is quiet but for a legal write, which has the effect of its target (R66, R67). -/
theorem hostAccess_cases (a : Access) (s : State) :
    QuietStep s (hostAccess a s) ∨
      ∃ off w u, a = .write off 4 w ∧ WriteEffect s w (targetOf off) u ∧ hostAccess a s = u.respond 0#32 false := by
  unfold hostAccess
  split_ifs with hr
  · exact .inl (setResp_quiet s _)
  · cases a with
    | read addr size =>
      left
      simp only
      split_ifs
      · exact badAccess_quiet s
      · exact setResp_quiet s _
      · exact hostRead_quiet addr s
    | write addr size w =>
      simp only
      split_ifs with hf
      · exact .inl (badAccess_quiet s)
      · exact .inl (setResp_quiet s _)
      · obtain ⟨rfl, -⟩ : size = 4 ∧ addr % 4 = 0 := by simpa [accessFormed] using hf
        exact .inr ⟨addr, w, _, rfl, writeEffect_cases s w _, rfl⟩

/-! ## Every step -/

/-- What a step that goes on does, from `s` to the last argument. -/
inductive StepEffect (s : State) : State → Prop
  /-- A read, a start, an abort, or nothing. -/
  | quiet (t : State) (h : QuietStep s t) : StepEffect s t
  /-- A legal host write. -/
  | write (rest : List Event) (off : Nat) (w : Word) (u : State) (hin : s.inputs = .access (.write off 4 w) :: rest)
      (h : WriteEffect { s with inputs := rest } w (targetOf off) u) : StepEffect s (u.respond 0#32 false)
  /-- RST asserted. -/
  | reset (rest : List Event) (hin : s.inputs = .drive true :: rest) : StepEffect s (driveReset true { s with inputs := rest })
  /-- A command completes. -/
  | command (rest : List Event) (e : Entry) (i : Instr) (u : State) (he : s.inflight = some e) (hi : decode e.word = .ok i)
      (h : CommandEffect { s with inputs := rest } i u) : StepEffect s u.complete

theorem Records.of_inputs {s t : State} {rest : List Event} (h : Records { s with inputs := rest } t) : Records s t :=
  ⟨h.sticky, h.errinfo⟩

/-- Taking an event off the list changes nothing the claims speak of. -/
theorem QuietStep.of_inputs {s t : State} {rest : List Event} (h : QuietStep { s with inputs := rest } t) : QuietStep s t :=
  ⟨{ h.block with }, h.io, h.irqen, h.fifo, h.records.of_inputs⟩

theorem abort_quiet (c : ErrCode) (w : Word) (s : State) : QuietStep s (s.abort c (sourceOf w)) :=
  ⟨abort_sameBlock c _ s, rfl, rfl, le_rfl, .abort c (sourceOf_fits w) s⟩

theorem startNext_quiet (s : State) : QuietStep s s.startNext := by
  unfold State.startNext
  split
  · exact .refl s
  · next e rest hf => exact ⟨by constructor <;> rfl, rfl, rfl, by simp [hf], .of_eq rfl rfl⟩

/-- What every step that goes on does: claims about all steps are proved case by case from this. -/
theorem step_effects {s t : State} (h : step s = .next t) : StepEffect s t := by
  rcases step_cases h with ⟨rest, -, h⟩ | ⟨a, rest, hin, rfl⟩ | ⟨level, rest, hin, rfl⟩
  · rcases executorMove_cases h with ⟨-, rfl⟩ | ⟨-, -, rfl⟩ | ⟨e, -, he, h⟩
    · exact .quiet _ (QuietStep.refl _).of_inputs
    · exact .quiet _ (startNext_quiet _).of_inputs
    · rcases completeEntry_cases h with ⟨i, hi, h⟩ | ⟨d, -, rfl⟩
      · rcases exec_cases h with ⟨c, w, rfl⟩ | ⟨u, hu, rfl⟩
        · exact .quiet _ (abort_quiet c w _).of_inputs
        · exact .command rest e i u he hi hu
      · exact .quiet _ (abort_quiet _ e.word _).of_inputs
  · rcases hostAccess_cases a { s with inputs := rest } with hq | ⟨off, w, u, rfl, hu, ht⟩
    · exact .quiet _ hq.of_inputs
    · rw [ht]; exact .write rest off w u hin hu
  · cases level with
    | true => exact .reset rest hin
    | false => exact .quiet _ ⟨by constructor <;> rfl, rfl, rfl, le_rfl, .of_eq rfl rfl⟩

/-- A command that completes records no more than its effect does, and CMDDONE. -/
theorem completion_records {s u : State} {rest : List Event} {i : Instr} (h : CommandEffect { s with inputs := rest } i u) :
    Records s u.complete :=
  ((effect_records h).trans (.complete u)).of_inputs

/-- A legal host write leaves the block's side as it is. -/
theorem writeEffect_sameBlock {s u : State} {w : Word} {t : Target} (h : WriteEffect s w t u) : SameBlock s u := by
  cases h <;> constructor <;> rfl

/-- An invariant of the block's side is kept by every step if a reset establishes it and every command's effect keeps it. -/
theorem step_keeps_block {P : State → Prop} (same : ∀ {s t}, SameBlock s t → P s → P t) (reset : ∀ p, P (State.resetOf p))
    (command : ∀ {s i u}, CommandEffect s i u → P s → P u) {s t : State} (hs : P s) (h : step s = .next t) : P t := by
  cases step_effects h with
  | quiet _ hq => exact same hq.block hs
  | write rest off w u hin hu =>
    have hb := writeEffect_sameBlock hu
    exact same (s := u) (by constructor <;> rfl) (same hb (same (s := s) (by constructor <;> rfl) hs))
  | reset rest hin => exact same (s := State.resetOf s.params) (by constructor <;> rfl) (reset s.params)
  | command rest e i u he hi hu =>
    exact same (complete_sameBlock u) (command hu (same (s := s) (by constructor <;> rfl) hs))

end Sys2Proof.Machine
end

section
/-! PROOF. The executor's turn, the interrupt line, and what every step keeps of the registers that record and control. -/

namespace Sys2Proof.Machine

/-! ## The executor's turn -/

/-- At its turn the executor moves on the rest of the events (log 4). -/
theorem step_of_executorTurn {s : State} {rest : List Event} (h : s.executorTurn rest) :
    step s = executorMove { s with inputs := rest } := by
  rcases h with ⟨hin, rfl⟩ | hin
  · rw [step_of_nil hin, ← hin]
  · rw [step_of_cons hin, takeEvent_turn]

theorem executorMove_of_empty_slot {s : State} (hr : s.rst = false) (hi : s.inflight = none) :
    executorMove s = .next s.startNext := by
  simp [executorMove, hr, hi]

/-- Settles O7: the turn is a start, and a start takes the head of the FIFO or does nothing. -/
theorem executorTakesOldest : Obligations.ExecutorTakesOldest := by
  intro s rest hr hturn hi
  rw [step_of_executorTurn hturn, executorMove_of_empty_slot (s := { s with inputs := rest }) hr hi]
  exact ⟨fun e waiting hf => by simp [State.startNext, hf], fun hf => by simp [State.startNext, hf]⟩

/-! ## STATUS and the interrupt line -/

/-- The write-1-to-clear bits of STATUS (R24). -/
theorem w1cMask_getLsbD (i : Nat) : w1cMask.getLsbD i = decide (i ∈ [4, 5, 8, 9, 10, 11, 12, 13, 14]) := by
  by_cases hi : i < 32
  · interval_cases i <;> rfl
  · rw [BitVec.getLsbD_of_ge _ _ (by omega)]
    simp only [List.mem_cons, List.not_mem_nil, or_false, Bool.false_eq, decide_eq_false_iff_not]
    omega

theorem word_eq_zero_iff (w : Word) : w = 0#32 ↔ ∀ i, w.getLsbD i = false :=
  ⟨fun h i => by simp [h], fun h => BitVec.eq_of_getLsbD_eq fun i _ => by simp [h i]⟩

/-- The four level bits of STATUS as a number. -/
theorem levels_lt (b0 b1 b2 b3 : Bool) : b0.toNat + 2 * b1.toNat + 4 * b2.toNat + 8 * b3.toNat < 16 := by
  have := Bool.toNat_lt b0; have := Bool.toNat_lt b1; have := Bool.toNat_lt b2; have := Bool.toNat_lt b3
  omega

/-- From bit 4 up, STATUS is the sticky bits (R23). -/
theorem statusWord_getLsbD_sticky (s : State) {i : Nat} (hi : 4 ≤ i) :
    s.statusWord.getLsbD i = (decide (i ∈ [4, 5, 8, 9, 10, 11, 12, 13, 14]) && s.sticky.getLsbD i) := by
  have hlev : (s.busy.toNat + 2 * s.pending.toNat + 4 * s.qfull.toNat + 8 * s.prepared.toNat).testBit i = false :=
    Nat.testBit_lt_two_pow (lt_of_lt_of_le (levels_lt _ _ _ _) (Nat.pow_le_pow_right (n := 2) (by norm_num) hi))
  rw [State.statusWord, BitVec.getLsbD_or, BitVec.getLsbD_and, BitVec.getLsbD_ofNat, hlev, w1cMask_getLsbD]
  simp [Bool.and_comm]

/-- Below bit 4, STATUS is the levels (R23). -/
theorem statusWord_getLsbD_levels (s : State) :
    s.statusWord.getLsbD 0 = s.busy ∧ s.statusWord.getLsbD 1 = s.pending ∧ s.statusWord.getLsbD 2 = s.qfull ∧
      s.statusWord.getLsbD 3 = s.prepared := by
  simp only [State.statusWord, BitVec.getLsbD_or, BitVec.getLsbD_and, w1cMask_getLsbD]
  cases s.busy <;> cases s.pending <;> cases s.qfull <;> cases s.prepared <;> simp <;> decide

/-- Settles O41: a pending and enabled source is a common bit of STATUS, IRQEN and the mask, so the line is 1 when that word is not 0. -/
theorem irqIsEnabledPending : Obligations.IrqIsEnabledPending := by
  intro s
  obtain ⟨h0, h1, h2, h3⟩ := statusWord_getLsbD_levels s
  refine ⟨?_, h0, ?_, ?_, h3, fun i hi => statusWord_getLsbD_sticky s hi⟩
  · have hbit : ∀ i, (s.statusWord &&& s.irqen &&& w1cMask).getLsbD i =
        ((s.statusWord.getLsbD i && s.irqen.getLsbD i) && decide (i ∈ [4, 5, 8, 9, 10, 11, 12, 13, 14])) := fun i => by
      rw [BitVec.getLsbD_and, BitVec.getLsbD_and, w1cMask_getLsbD]
    rw [Bool.eq_iff_iff, State.irq, bne_iff_ne, Ne, word_eq_zero_iff, List.any_eq_true]
    simp only [hbit]
    grind
  · rw [h1, State.pending]; cases s.fifo <;> rfl
  · rw [h2, State.qfull]; exact rfl

/-! ## Errors and sticky bits -/

/-- Settles O52: only a write to ERRINFO and a reset do more to ERRINFO than capture a first error. -/
theorem firstErrorIsKept : Obligations.FirstErrorIsKept := by
  intro s t h hne hw hr
  have kept : ∀ {u}, Records s u → u.errinfo = s.errinfo := fun hu => hu.errinfo.resolve_right fun ⟨h0, _⟩ => hne h0
  cases step_effects h with
  | quiet _ hq => exact kept hq.records
  | reset rest hin => exact absurd hin (hr rest)
  | command rest e i u he hi hu => exact kept (completion_records hu)
  | write rest off w u hin hu =>
    generalize htgt : targetOf off = tgt at hu
    cases hu with
    | errinfo => exact absurd (targetOf_eq_errinfo htgt ▸ hin) (hw w rest)
    | recorded _ c src hsrc => exact kept (u := s.recordError c src) (.recordError c hsrc s)
    | _ => rfl

/-- Settles O53: only a write to STATUS and a reset do more to the sticky bits than set some. -/
theorem onlyHostClearsStatus : Obligations.OnlyHostClearsStatus := by
  intro s t i h hbit hw hr
  have kept : ∀ {u}, Records s u → u.sticky.getLsbD i = true := fun hu => by
    obtain ⟨m, -, hm⟩ := hu.sticky
    rw [hm, BitVec.getLsbD_or, hbit, Bool.true_or]
  cases step_effects h with
  | quiet _ hq => exact kept hq.records
  | reset rest hin => exact absurd hin (hr rest)
  | command rest e j u he hj hu => exact kept (completion_records hu)
  | write rest off w u hin hu =>
    generalize htgt : targetOf off = tgt at hu
    cases hu with
    | status =>
      have hwi : w.getLsbD i = false := hw w rest (targetOf_eq_status htgt ▸ hin)
      have hi : i < 32 := BitVec.lt_of_getLsbD hbit
      rw [State.respond_sticky, State.clearSticky_sticky, BitVec.getLsbD_and, BitVec.getLsbD_not, BitVec.getLsbD_and, hbit, hwi]
      simp [hi]
    | recorded _ c src hsrc => exact kept (u := s.recordError c src) (.recordError c hsrc s)
    | _ => exact hbit

/-! ## SR, PREPARED and the parameters -/

/-- SR and PREPARED change only by a PREPARE, which sets PREPARED (R212). -/
theorem effect_rate {s u : State} {i : Instr} (h : CommandEffect s i u) :
    (u.sr = s.sr ∧ u.prepared = s.prepared) ∨ (i = .prepare ∧ u.prepared = true) := by
  cases h with
  | prepare => exact .inr ⟨rfl, by rw [State.prepareWith_frame]⟩
  | setTranspo v c t hv hx hc ht => rw [State.voiceFreqUpdate_frame, ht, State.noteClamp_frame]; exact .inl ⟨rfl, rfl⟩
  | setWindow c => rw [State.allFreqUpdate_frame, State.noteClamp_frame]; exact .inl ⟨rfl, rfl⟩
  | process _ hp hu => rw [State.processBlock_frame hu]; exact .inl ⟨rfl, rfl⟩
  | rbInit => rw [State.ringClear_frame]; exact .inl ⟨rfl, rfl⟩
  | rbWrite _ hcap hu => rw [State.ringWriteBlock_frame hu]; exact .inl ⟨rfl, rfl⟩
  | rbRead ch src n d r hch hsrc hr => rw [State.ringReadInterp_frame hr]; exact .inl ⟨rfl, rfl⟩
  | _ => exact .inl ⟨rfl, rfl⟩

theorem select_of_decode {w : Word} {i : Instr} (h : decode w = .ok i) : select w = some i := by
  unfold decode at h
  cases hs : select w with
  | none => rw [hs] at h; cases h
  | some j =>
    rw [hs] at h
    simp only at h
    split_ifs at h
    cases h
    rfl

/-- Settles O54: of the steps only a command's effect and a reset touch SR and PREPARED, and of the effects only PREPARE's. -/
theorem onlyPrepareSetsRate : Obligations.OnlyPrepareSetsRate := by
  intro s t h
  cases step_effects h with
  | quiet _ hq => exact ⟨hq.block.params, fun hne => by simp [hq.block.sr, hq.block.prepared] at hne⟩
  | write rest off w u hin hu =>
    have hb := writeEffect_sameBlock hu
    exact ⟨hb.params, fun hne => by simp [hb.sr, hb.prepared] at hne⟩
  | reset rest hin => exact ⟨rfl, fun _ => .inr ⟨rest, hin⟩⟩
  | command rest e i u he hi hu =>
    refine ⟨(effect_hostSide hu).1.1, fun hne => .inl ?_⟩
    rcases effect_rate hu with ⟨hsr, hprep⟩ | ⟨rfl, hprep⟩
    · simp [hsr, hprep] at hne
    · exact ⟨by simp [State.inflightCommand, he, select_of_decode hi], hprep⟩

/-! ## The cursor and the control registers -/

theorem w32_mod_lt {n k : Nat} (hk : 0 < k) : (w32 (n % k)).toNat < k := by
  rw [BitVec.toNat_ofNat]
  exact lt_of_le_of_lt (Nat.mod_le _ _) (Nat.mod_lt _ hk)

/-- Every command's effect keeps the cursor in the ring (R45, R181, R182, R183, R212). -/
theorem effect_cursorLegal {s u : State} {i : Instr} (h : CommandEffect s i u) (hs : s.cursorLegal) : u.cursorLegal := by
  obtain ⟨hcap, hblk, hwptr, hprep⟩ := hs
  cases h with
  | prepare hlo hhi hb hb' hc hw =>
    have hcapw : (w32 (capacityFor s.operand0.toNat)).toNat = capacityFor s.operand0.toNat := by
      rw [BitVec.toNat_ofNat]; exact Nat.mod_eq_of_lt (lt_of_le_of_lt hc (by decide))
    rw [State.prepareWith_frame]
    simp only [State.cursorLegal, hcapw, w32, BitVec.ofNat_toNat, BitVec.setWidth_eq]
    exact ⟨hc, hb', fun h1 => h1, fun _ => by omega⟩
  | setTranspo v c t hv hx hc ht =>
    rw [State.voiceFreqUpdate_frame, ht, State.noteClamp_frame]; exact ⟨hcap, hblk, hwptr, hprep⟩
  | setWindow c => rw [State.allFreqUpdate_frame, State.noteClamp_frame]; exact ⟨hcap, hblk, hwptr, hprep⟩
  | process _ hp hu => rw [State.processBlock_frame hu]; exact ⟨hcap, hblk, w32_mod_lt, hprep⟩
  | rbConfigure h1 h2 h3 => exact ⟨h2, h3, fun h => h, fun _ => h1⟩
  | rbInit h1 => rw [State.ringClear_frame]; exact ⟨hcap, hblk, fun h => h, hprep⟩
  | rbWrite _ h1 hu => rw [State.ringWriteBlock_frame hu]; exact ⟨hcap, hblk, w32_mod_lt, hprep⟩
  | rbRead ch src n d r hch hsrc hr => rw [State.ringReadInterp_frame hr]; exact ⟨hcap, hblk, hwptr, hprep⟩
  | _ => exact ⟨hcap, hblk, hwptr, hprep⟩

theorem step_cursorLegal {s t : State} (hs : s.cursorLegal) (h : step s = .next t) : t.cursorLegal :=
  step_keeps_block (P := State.cursorLegal)
    (fun hb hs => by simpa only [State.cursorLegal, hb.cap, hb.blksz, hb.wptr, hb.prepared] using hs)
    (fun _ => by simp [State.cursorLegal, State.resetOf]) effect_cursorLegal hs h

/-- Recording keeps the reserved bits of STATUS and ERRINFO at 0. -/
theorem Records.controlLegal {s t : State} (h : Records s t) (hs : s.controlLegal) (hp : t.params = s.params)
    (hf : t.fifo.length ≤ s.fifo.length) (hi : t.irqen = s.irqen) : t.controlLegal := by
  obtain ⟨hfifo, hst, hirq, herr⟩ := hs
  obtain ⟨⟨m, hm, hsticky⟩, herr'⟩ := h
  refine ⟨by rw [hp]; exact hf.trans hfifo, ?_, by rw [hi]; exact hirq, ?_⟩
  · rw [hsticky, BitVec.and_or_distrib_right, hst, hm]; rfl
  · rcases herr' with h | ⟨-, h⟩
    · rw [h]; exact herr
    · exact h

theorem writeEffect_controlLegal {s u : State} {w : Word} {t : Target} (h : WriteEffect s w t u) (hs : s.controlLegal) :
    u.controlLegal := by
  cases h with
  | recorded _ c src hsrc => exact (Records.recordError c hsrc s).controlLegal hs rfl le_rfl rfl
  | status =>
    obtain ⟨hfifo, hst, hirq, herr⟩ := hs
    refine ⟨hfifo, ?_, hirq, herr⟩
    rw [State.clearSticky_sticky, BitVec.and_assoc, BitVec.and_comm (~~~(w &&& w1cMask)), ← BitVec.and_assoc, hst]; simp
  | errinfo =>
    obtain ⟨hfifo, hst, hirq, -⟩ := hs
    exact ⟨hfifo, hst, hirq, by simp⟩
  | irqen =>
    obtain ⟨hfifo, hst, -, herr⟩ := hs
    refine ⟨hfifo, hst, ?_, herr⟩
    rw [State.setIrqen_irqen, BitVec.and_assoc]; simp
  | enqueued _ e hlt =>
    obtain ⟨-, hrest⟩ := hs
    exact ⟨by simpa using hlt, hrest⟩
  | _ => exact hs

theorem step_controlLegal {s t : State} (hs : s.controlLegal) (h : step s = .next t) : t.controlLegal := by
  cases step_effects h with
  | quiet _ hq => exact hq.records.controlLegal hs hq.block.params hq.fifo hq.irqen
  | write rest off w u hin hu =>
    have hc : u.controlLegal := writeEffect_controlLegal hu hs
    exact hc
  | reset rest hin => simp [State.controlLegal, driveReset, State.resetOf]
  | command rest e i u he hi hu =>
    obtain ⟨⟨hp, hirq, -, -, hf, -⟩, -⟩ := effect_hostSide hu
    exact (completion_records hu).controlLegal hs hp (le_of_eq (congrArg _ hf)) hirq

/-- Settles O58: the cursor is the commands' and kept by each effect; the control registers change by records and host writes. -/
theorem cursorAndControlKept : Obligations.CursorAndControlKept :=
  ⟨fun _ _ => step_cursorLegal, fun _ _ => step_controlLegal⟩

end Sys2Proof.Machine
end

section
/-! PROOF. Canonical memories: they are determined by what they read as, and every step keeps both memories canonical and within their
sizes. -/

namespace Sys2Proof.Machine

namespace Memory

/-! ## What determines a canonical memory -/

theorem mem_iff_lookup {cs : List (Nat × Word)} (hs : Sorted cs) (k : Nat) (x : Word) : (k, x) ∈ cs ↔ lookup k cs = some x := by
  refine ⟨fun h => ?_, lookup_mem⟩
  induction cs with
  | nil => cases h
  | cons c r ih =>
    obtain ⟨j, y⟩ := c
    obtain ⟨hj, hr⟩ := List.pairwise_cons.1 hs
    rcases List.mem_cons.1 h with h | h
    · cases h; simp [lookup]
    · have hne : k ≠ j := by have := hj (k, x) h; simp only at this; omega
      simp [lookup, hne, ih hr h]

/-- Lists of rising indices that look up alike are equal. -/
theorem eq_of_lookup_eq {cs ds : List (Nat × Word)} (hc : Sorted cs) (hd : Sorted ds) (h : ∀ k, lookup k cs = lookup k ds) :
    cs = ds := by
  have nodup : ∀ {es : List (Nat × Word)}, Sorted es → es.Nodup := fun he => he.imp fun hlt e => by simp [e] at hlt
  have hperm : cs.Perm ds := (List.perm_ext_iff_of_nodup (nodup hc) (nodup hd)).2 fun ⟨k, x⟩ => by
    rw [mem_iff_lookup hc, mem_iff_lookup hd, h]
  exact hperm.eq_of_pairwise (fun a b _ _ hab hba => absurd hab (Nat.lt_asymm hba)) hc hd

theorem read_filled {m : Memory} (h : m.wf) : m.read m.filled = none := by
  rw [read_eq, lookup_eq_none_of_forall_ne fun c hc => (h.2 c hc).1]
  simp

theorem read_ne_none_of_lt {m : Memory} {i : Nat} (h : i < m.filled) : m.read i ≠ none := by
  rw [read_eq, if_pos h]
  cases lookup i m.cells <;> simp

/-- The filled length is the first undefined cell. -/
theorem filled_le_of_read {m m' : Memory} (h : m.wf) (hr : ∀ i, m.read i = m'.read i) : m'.filled ≤ m.filled := by
  by_contra hlt
  exact read_ne_none_of_lt (not_le.1 hlt) (hr m.filled ▸ read_filled h)

/-- A cell is listed unless it lies below the filled length and holds +0.0. -/
theorem lookup_of_read {m : Memory} (h : m.wf) (i : Nat) :
    lookup i m.cells = if i < m.filled ∧ m.read i = some 0#32 then none else m.read i := by
  cases hl : lookup i m.cells with
  | none => by_cases hi : i < m.filled <;> simp [read_eq, hl, hi]
  | some x =>
    have hx : i < m.filled → x ≠ 0#32 := (h.2 _ (lookup_mem hl)).2
    have hr : m.read i = some x := by simp [read_eq, hl]
    rw [hr, if_neg fun ⟨hi, h0⟩ => hx hi (by simpa using h0)]

end Memory

/-- Settles O56: equal reads give the same filled length, hence the same listed cells. -/
theorem canonicalMemoryIsUnique : Obligations.CanonicalMemoryIsUnique := by
  intro m m' h h' hr
  have hf : m.filled = m'.filled :=
    le_antisymm (Memory.filled_le_of_read h' fun i => (hr i).symm) (Memory.filled_le_of_read h hr)
  have hc : m.cells = m'.cells := Memory.eq_of_lookup_eq h.1 h'.1 fun i => by
    rw [Memory.lookup_of_read h, Memory.lookup_of_read h', hf, hr]
  cases m; cases m'; simp_all

/-! ## The operations on both memories -/

theorem memoryLegal_of_eq {s t : State} (hring : t.ring = s.ring) (hio : t.io = s.io) (h : s.memoryLegal) : t.memoryLegal := by
  simpa only [State.memoryLegal, State.ringMem, State.ioMem, hring, hio] using h

theorem ringWrite_memoryLegal {s : State} (h : s.memoryLegal) {ch i : Nat} (hch : ch < 8) (hi : i < Config.capMax) (x : Word) :
    (s.ringWrite ch i x).memoryLegal := by
  intro c hc
  obtain ⟨hw, hb, hio⟩ := h c hc
  rw [State.ringMem_ringWrite s hch]
  split_ifs with e
  · subst e; exact ⟨Memory.write_wf hw i x, Memory.write_below hb hi x, hio⟩
  · exact ⟨hw, hb, hio⟩

theorem ringFillZero_memoryLegal {s : State} (h : s.memoryLegal) {ch n : Nat} (hch : ch < 8) (hn : n ≤ Config.capMax) :
    (s.ringFillZero ch n).memoryLegal := by
  intro c hc
  obtain ⟨hw, hb, hio⟩ := h c hc
  rw [State.ringMem_ringFillZero s hch]
  split_ifs with e
  · subst e; exact ⟨Memory.fillZero_wf hw n, Memory.fillZero_below hb hn, hio⟩
  · exact ⟨hw, hb, hio⟩

theorem ioWrite_memoryLegal {s : State} (h : s.memoryLegal) {ch n : Nat} (hch : ch < 8) (hn : n < Config.blockMax) (x : Word) :
    (s.ioWrite ch n x).memoryLegal := by
  intro c hc
  obtain ⟨hw, hb, hwi, hbi⟩ := h c hc
  rw [State.ioMem_ioWrite s hch]
  split_ifs with e
  · subst e; exact ⟨hw, hb, Memory.write_wf hwi n x, Memory.write_below hbi hn x⟩
  · exact ⟨hw, hb, hwi, hbi⟩

theorem ringClear_memoryLegal {s : State} (h : s.memoryLegal) {n : Nat} (hn : n ≤ Config.capMax) : (s.ringClear n).memoryLegal :=
  loop_induct (fun _ (t : State) => t.memoryLegal) h fun _ _ hch ht =>
    ringFillZero_memoryLegal ht (channel_lt_eight hch) hn

/-- Writing a block stores below CAP only (R183). -/
theorem ringWriteBlock_memoryLegal {s t : State} (h : s.memoryLegal) (h1 : 1 ≤ s.cap.toNat) (hcap : s.cap.toNat ≤ Config.capMax)
    (ht : s.ringWriteBlock = .ok t) : t.memoryLegal := by
  obtain ⟨u, hu, ht⟩ := andThen_eq_ok.1 ht
  cases ht
  have key : u.memoryLegal ∧ u.cap = s.cap := by
    refine loopE_induct (fun _ (u : State) => u.memoryLegal ∧ u.cap = s.cap) ⟨h, rfl⟩ (fun ch v w hch hv hw => ?_) hu
    have hch8 : ch < 8 := channel_lt_eight hch
    refine loopE_induct (fun _ (u : State) => u.memoryLegal ∧ u.cap = s.cap) hv (fun j x y _ hx hy => ?_) hw
    obtain ⟨z, -, hy⟩ := andThen_eq_ok.1 hy
    cases hy
    have hlt : (x.wptr.toNat + j) % x.cap.toNat < Config.capMax :=
      lt_of_lt_of_le (Nat.mod_lt _ (by rw [hx.2]; omega)) (by rw [hx.2]; exact hcap)
    exact ⟨ringWrite_memoryLegal hx.1 hch8 hlt z, hx.2⟩
  exact memoryLegal_of_eq (s := u) rfl rfl key.1

/-! ## The outputs of a block have its shape (R220) -/

theorem outChannel_length {src : ErrSource} {ch : Nat} {s : State} {r : State × List Word} (h : s.outChannel src ch = .ok r) :
    r.2.length = s.blksz.toNat := by
  refine loopE_induct (fun k x => x.2.length = k) rfl (fun k x y _ hx hy => ?_) h
  obtain ⟨a, -, hy⟩ := andThen_eq_ok.1 hy
  cases hy
  simp [hx]

theorem outBlock_shape {src : ErrSource} {s : State} {r : State × List (List Word)} (h : s.outBlock src = .ok r) :
    r.2.length = s.params.nch ∧ ∀ row ∈ r.2, row.length = s.blksz.toNat := by
  suffices hk : r.2.length = s.params.nch ∧ (∀ row ∈ r.2, row.length = s.blksz.toNat) ∧ r.1.blksz = s.blksz from ⟨hk.1, hk.2.1⟩
  refine loopE_induct (fun k x => x.2.length = k ∧ (∀ row ∈ x.2, row.length = s.blksz.toNat) ∧ x.1.blksz = s.blksz)
    ⟨rfl, by simp, rfl⟩ (fun ch x y hch hx hy => ?_) h
  obtain ⟨hlen, hrows, hblk⟩ := hx
  obtain ⟨a, ha, hy⟩ := andThen_eq_ok.1 hy
  cases hy
  have hrow : a.2.length = s.blksz.toNat := by rw [outChannel_length ha, hblk]
  have hkeep : a.1.blksz = s.blksz :=
    outChannel_keeps (P := fun t => t.blksz = s.blksz) (fun _ _ _ _ _ ht => ht) (fun _ ht => ht)
      (channel_lt_eight hch) hblk ha
  refine ⟨by simp [hlen], fun row hmem => ?_, hkeep⟩
  rcases List.mem_append.1 hmem with hmem | hmem
  · exact hrows row hmem
  · rw [List.mem_singleton.1 hmem]; exact hrow

theorem writeBlock_memoryLegal {s : State} (h : s.memoryLegal) {out : List (List Word)} (hlen : out.length ≤ 8)
    (hrows : ∀ row ∈ out, row.length ≤ Config.blockMax) : (s.writeBlock out).memoryLegal := by
  refine loop_induct (fun _ (t : State) => t.memoryLegal) h fun ch t hch ht => ?_
  have hrow : (out.getD ch []).length ≤ Config.blockMax := by
    rw [List.getD_eq_getElem _ _ hch]; exact hrows _ (List.getElem_mem hch)
  exact loop_induct (fun _ (u : State) => u.memoryLegal) ht fun n u hn hu =>
    ioWrite_memoryLegal hu (lt_of_lt_of_le hch hlen) (lt_of_lt_of_le hn hrow) _

theorem processBlock_memoryLegal {src : ErrSource} {s u : State} (h : s.memoryLegal) (hc : s.cursorLegal) (hp : s.prepared = true)
    (hu : s.processBlock src = .ok u) : u.memoryLegal := by
  obtain ⟨hcap, hblk, -, hprep⟩ := hc
  obtain ⟨t, ht, hu⟩ := andThen_eq_ok.1 hu
  obtain ⟨r, hr, hu⟩ := andThen_eq_ok.1 hu
  cases hu
  have htm : t.memoryLegal := ringWriteBlock_memoryLegal h (hprep hp) hcap ht
  have hrm : r.1.memoryLegal := by rw [State.outBlock_frame hr]; exact memoryLegal_of_eq rfl rfl htm
  obtain ⟨hlen, hrows⟩ := outBlock_shape hr
  have htb : t.blksz = s.blksz := by rw [State.ringWriteBlock_frame ht]
  have hwm : (r.1.writeBlock r.2).memoryLegal :=
    writeBlock_memoryLegal hrm (by rw [hlen]; exact t.params.nch_range.2) fun row hm => by rw [hrows row hm, htb]; exact hblk
  exact memoryLegal_of_eq (s := r.1.writeBlock r.2) rfl rfl hwm

/-! ## Every step -/

theorem zeroPhases_memoryLegal {s : State} (h : s.memoryLegal) : s.zeroPhases.memoryLegal :=
  memoryLegal_of_eq (congrArg State.ring (State.zeroPhases_frame s)) (congrArg State.io (State.zeroPhases_frame s)) h

theorem allFreqUpdate_memoryLegal {s : State} (h : s.memoryLegal) : s.allFreqUpdate.memoryLegal :=
  memoryLegal_of_eq (congrArg State.ring (State.allFreqUpdate_frame s)) (congrArg State.io (State.allFreqUpdate_frame s)) h

theorem prepareWith_memoryLegal {s : State} (h : s.memoryLegal) {sr : Nat} (hcap : capacityFor sr ≤ Config.capMax) (blk : Nat) :
    (s.prepareWith sr blk).memoryLegal := by
  have h1 : { s with sr := w32 sr, cap := w32 (capacityFor sr), blksz := w32 blk, wptr := 0#32 }.memoryLegal := h
  have h2 := zeroPhases_memoryLegal (ringClear_memoryLegal h1 hcap)
  exact memoryLegal_of_eq (s := State.allFreqUpdate _) rfl rfl
    (allFreqUpdate_memoryLegal (memoryLegal_of_eq (s := State.zeroPhases _) rfl rfl h2))

/-- Every command's effect keeps both memories canonical and within their sizes (R61, R62, R182, R183, R212). -/
theorem effect_memoryLegal {s u : State} {i : Instr} (h : CommandEffect s i u) (hm : s.memoryLegal) (hc : s.cursorLegal) :
    u.memoryLegal := by
  cases h with
  | prepare hlo hhi hb hb' hcap hw => exact prepareWith_memoryLegal hm hcap _
  | setTranspo v c t hv hx hc ht => rw [State.voiceFreqUpdate_frame, ht, State.noteClamp_frame]; exact hm
  | setWindow c => rw [State.allFreqUpdate_frame, State.noteClamp_frame]; exact hm
  | process _ hp hu => exact processBlock_memoryLegal hm hc hp hu
  | rbInit h1 => exact ringClear_memoryLegal hm hc.1
  | rbWrite _ h1 hu => exact ringWriteBlock_memoryLegal hm h1 hc.1 hu
  | rbRead ch src n d r hch hsrc hr => rw [State.ringReadInterp_frame hr]; exact hm
  | _ => exact hm

theorem writeEffect_memoryLegal {s u : State} {off : Nat} {w : Word} (h : WriteEffect s w (targetOf off) u)
    (hm : s.memoryLegal) : u.memoryLegal := by
  generalize htgt : targetOf off = tgt at h
  cases h with
  | cell ch n hch => exact ioWrite_memoryLegal hm (channel_lt_eight hch) (targetOf_eq_iobuf htgt).2 w
  | _ => exact hm

theorem undefined_memoryLegal {s : State} (hring : s.ring = Vector.replicate 8 Memory.undefined)
    (hio : s.io = Vector.replicate 8 Memory.undefined) : s.memoryLegal := by
  have hget : ∀ ch, (Vector.replicate 8 Memory.undefined).getD ch Memory.undefined = Memory.undefined := fun ch => by
    by_cases h : ch < 8 <;> simp [Vector.getD, h]
  intro ch _
  simp only [State.ringMem, State.ioMem, hring, hio, hget]
  exact ⟨Memory.undefined_wf, Memory.undefined_below _, Memory.undefined_wf, Memory.undefined_below _⟩

/-- Settles O57: commands write below CAP and BLKSZ, the host below the channel stride, and each memory operation keeps the form. -/
theorem memoryFormKept : Obligations.MemoryFormKept := by
  intro s t hm hc h
  cases step_effects h with
  | quiet _ hq => exact memoryLegal_of_eq hq.block.ring hq.io hm
  | write rest off w u hin hu =>
    have hum : u.memoryLegal := writeEffect_memoryLegal hu hm
    exact hum
  | reset rest hin => exact undefined_memoryLegal rfl rfl
  | command rest e i u he hi hu =>
    have hum : u.memoryLegal := effect_memoryLegal hu hm hc
    exact hum

end Sys2Proof.Machine
end

section
/-! PROOF. FREQ and WIN_SAMP stay derived from TRANSPO, WIN_MS and SR. -/

namespace Sys2Proof.Machine

/-! ## What a frequency update leaves in the voices (R211) -/

@[simp] theorem voiceFreqUpdate_params (v : Nat) (s : State) : (s.voiceFreqUpdate v).params = s.params := by
  rw [State.voiceFreqUpdate_frame]

@[simp] theorem voiceFreqUpdate_winMs (v : Nat) (s : State) : (s.voiceFreqUpdate v).winMs = s.winMs := by
  rw [State.voiceFreqUpdate_frame]

@[simp] theorem allFreqUpdate_params (s : State) : s.allFreqUpdate.params = s.params := by rw [State.allFreqUpdate_frame]

@[simp] theorem allFreqUpdate_winMs (s : State) : s.allFreqUpdate.winMs = s.winMs := by rw [State.allFreqUpdate_frame]

theorem voiceFreqUpdate_voice (s : State) {v : Nat} (hv : v < 4) (u : Nat) :
    (s.voiceFreqUpdate v).voice u =
      if u = v then { s.voice v with freq := transpoToFreq s.params.expFn (s.voice v).transpo s.winMs } else s.voice u := by
  rw [← State.voice_setVoice s hv, State.voiceFreqUpdate]
  refine loop_induct (fun _ (t : State) => t.voice u = (s.setVoice v _).voice u) rfl fun k t _ ht => ?_
  rw [← ht]; rfl

/-- The frequency update of every voice recomputes FREQ in each voice there is and leaves TRANSPO (R212, R215). -/
theorem allFreqUpdate_voice (s : State) (u : Nat) :
    s.allFreqUpdate.voice u =
      if u < s.params.nvoice then { s.voice u with freq := transpoToFreq s.params.expFn (s.voice u).transpo s.winMs }
      else s.voice u := by
  suffices h : (∀ u, s.allFreqUpdate.voice u =
      if u < s.params.nvoice then { s.voice u with freq := transpoToFreq s.params.expFn (s.voice u).transpo s.winMs }
      else s.voice u) ∧ s.allFreqUpdate.params = s.params ∧ s.allFreqUpdate.winMs = s.winMs from h.1 u
  refine loop_induct (fun k (t : State) => (∀ u, t.voice u =
      if u < k then { s.voice u with freq := transpoToFreq s.params.expFn (s.voice u).transpo s.winMs }
      else s.voice u) ∧ t.params = s.params ∧ t.winMs = s.winMs) ⟨by simp, rfl, rfl⟩ fun k t hk ht => ?_
  obtain ⟨hvoice, hp, hw⟩ := ht
  have hk4 : k < 4 := voice_lt_four hk
  refine ⟨fun u => ?_, (voiceFreqUpdate_params k t).trans hp, (voiceFreqUpdate_winMs k t).trans hw⟩
  rw [voiceFreqUpdate_voice t hk4, hvoice k, hvoice u, hp, hw]
  rcases lt_trichotomy u k with h | rfl | h
  · simp [h, h.ne, Nat.lt_succ_of_lt h]
  · simp
  · simp [h.ne', show ¬ u < k by omega, show ¬ u < k + 1 by omega]

theorem allFreqUpdate_freqDerived (s : State) : s.allFreqUpdate.freqDerived := by
  intro v hv
  rw [allFreqUpdate_params] at hv
  rw [allFreqUpdate_voice, if_pos hv, allFreqUpdate_params, allFreqUpdate_winMs]

theorem voiceFreqUpdate_freqDerived {s : State} {v : Nat} (hv : v < 4)
    (h : ∀ u, u < s.params.nvoice → u ≠ v → (s.voice u).freq = transpoToFreq s.params.expFn (s.voice u).transpo s.winMs) :
    (s.voiceFreqUpdate v).freqDerived := by
  intro u hu
  rw [voiceFreqUpdate_params] at hu
  rw [voiceFreqUpdate_voice s hv, voiceFreqUpdate_params, voiceFreqUpdate_winMs]
  split_ifs with e
  · rfl
  · exact h u hu e

/-! ## Every step -/

theorem effect_freqDerived {s u : State} {i : Instr} (h : CommandEffect s i u) (hs : s.freqDerived) : u.freqDerived := by
  cases h with
  | prepare => exact allFreqUpdate_freqDerived _
  | setTranspo v c t hv hx hc ht =>
    have htd : t.freqDerived := by rw [ht, State.noteClamp_frame]; exact hs
    have hv4 : v.val < 4 := voice_lt_four hv
    refine voiceFreqUpdate_freqDerived hv4 fun u hu hne => ?_
    rw [State.voice_setVoice t hv4, if_neg hne]
    exact htd u hu
  | setWindow c => exact allFreqUpdate_freqDerived _
  | process _ hp hu => rw [State.processBlock_frame hu]; exact hs
  | rbInit => rw [State.ringClear_frame]; exact hs
  | rbWrite _ hcap hu => rw [State.ringWriteBlock_frame hu]; exact hs
  | rbRead ch src n d r hch hsrc hr => rw [State.ringReadInterp_frame hr]; exact hs
  | _ => exact hs

theorem effect_windowDerived {s u : State} {i : Instr} (h : CommandEffect s i u) (hs : s.windowDerived) : u.windowDerived := by
  cases h with
  | prepare =>
    rw [State.prepareWith_frame]
    intro _
    simp [w32]
  | setTranspo v c t hv hx hc ht => rw [State.voiceFreqUpdate_frame, ht, State.noteClamp_frame]; exact hs
  | setWindow c =>
    rw [State.allFreqUpdate_frame, State.noteClamp_frame]
    intro hp
    exact if_pos hp
  | process _ hp hu => rw [State.processBlock_frame hu]; exact hs
  | rbInit => rw [State.ringClear_frame]; exact hs
  | rbWrite _ hcap hu => rw [State.ringWriteBlock_frame hu]; exact hs
  | rbRead ch src n d r hch hsrc hr => rw [State.ringReadInterp_frame hr]; exact hs
  | _ => exact hs

theorem resetOf_voice (p : Params) (v : Nat) : (State.resetOf p).voice v = {} := by
  by_cases h : v < 4 <;> simp [State.voice, State.resetOf, Vector.getD, h]

/-- The reset value of FREQ is T2F of those of TRANSPO and WIN_MS, whatever Exp2 is: Exp2(0) = 1 (R126). -/
theorem transpoToFreq_reset (f : FnChoice) : transpoToFreq f 0x00000000#32 0x42480000#32 = 0x41A00000#32 := by
  cases f <;> decide +kernel

theorem resetOf_freqDerived (p : Params) : (State.resetOf p).freqDerived := by
  intro v _
  rw [resetOf_voice]
  exact (transpoToFreq_reset p.expFn).symm

/-- Settles O60: what writes TRANSPO, WIN_MS or SR recomputes the registers derived from them. -/
theorem derivedRegistersFollow : Obligations.DerivedRegistersFollow := by
  intro s t hf hw h
  refine step_keeps_block (P := fun s => s.freqDerived ∧ s.windowDerived) (fun hb hs => ?_)
    (fun p => ⟨resetOf_freqDerived p, fun hp => by simp [State.resetOf] at hp⟩)
    (fun hu hs => ⟨effect_freqDerived hu hs.1, effect_windowDerived hu hs.2⟩) ⟨hf, hw⟩ h
  simpa only [State.freqDerived, State.windowDerived, hb.params, hb.voice, hb.winMs, hb.prepared, hb.winSamp, hb.sr] using hs

end Sys2Proof.Machine
end

section
/-! SUPPORT. Bounds on the results of the binary32 operations, as bounds on magnitudes; what the engine's numbers rest on. -/

namespace Sys2Proof.Machine

/-! ## Finite values -/

theorem isFinite_iff {a : Word} : isFinite a = true ↔ fmag a < 0x7F800000 := decide_eq_true_iff

theorem isNaN_eq_false_of_finite {a : Word} (h : isFinite a = true) : isNaN a = false :=
  decide_eq_false (by have := isFinite_iff.1 h; omega)

theorem isInf_eq_false_of_finite {a : Word} (h : isFinite a = true) : isInf a = false :=
  beq_false_of_ne (isFinite_iff.1 h).ne

theorem natAbs_units (a : Word) : (units a).natAbs = magUnits (fmag a) := by
  unfold units
  split_ifs <;> simp

/-! ## Rounding -/

theorem nearestEven_mul_right (n c : Nat) {d : Nat} (hd : 0 < d) : nearestEven (n * d) (c * d) = nearestEven n c := by
  have hlt : c * d < 2 * (n % c * d) ↔ c < 2 * (n % c) := by rw [← mul_assoc]; exact Nat.mul_lt_mul_right hd
  have heq : 2 * (n % c * d) = c * d ↔ 2 * (n % c) = c := by rw [← mul_assoc]; exact Nat.mul_left_inj hd.ne'
  simp only [nearestEven, Nat.mul_div_mul_right _ _ hd, Nat.mul_mod_mul_right, hlt, Bool.beq_eq_decide_eq, heq]

/-- Rounding does not see a common factor of numerator and denominator. -/
theorem rneMag_mul_right (n : Nat) {d : Nat} (hd : 0 < d) : rneMag (n * d) d = rneMag n 1 := by
  unfold rneMag
  simp only [Nat.mul_div_cancel _ hd, Nat.div_one, Nat.one_mul, Nat.mul_comm d, nearestEven_mul_right _ _ hd]

/-- A quotient that is at most a representable value rounds to at most that value. -/
theorem rneMag_le_of_le_mul {n d m : Nat} (hd : 0 < d) (hm : m ≤ 0x7F800000) (h : n ≤ magUnits m * d) : rneMag n d ≤ m :=
  calc rneMag n d ≤ rneMag (magUnits m * d) d := rneMag_mono d h
    _ = m := by rw [rneMag_mul_right _ hd, rneMag_magUnits hm]

/-- A value that is at least a representable value rounds to at least that value. -/
theorem le_rneMag_of_le {n m : Nat} (hm : m ≤ 0x7F800000) (h : magUnits m ≤ n) : m ≤ rneMag n 1 :=
  calc m = rneMag (magUnits m) 1 := (rneMag_magUnits hm).symm
    _ ≤ rneMag n 1 := rneMag_mono 1 h

@[simp] theorem fmag_rne32 (neg : Bool) (n d : Nat) : fmag (rne32 neg n d) = rneMag n d := fmag_fpack neg (rneMag_lt n d)

/-! ## Operations on finite values -/

theorem fmag_fadd_le {a b : Word} {m : Nat} (ha : isFinite a = true) (hb : isFinite b = true) (hm : m ≤ 0x7F800000)
    (h : magUnits (fmag a) + magUnits (fmag b) ≤ magUnits m) : fmag (fadd a b) ≤ m := by
  have hsum : (units a + units b).natAbs ≤ magUnits m := by
    have := Int.natAbs_add_le (units a) (units b)
    rw [natAbs_units, natAbs_units] at this
    exact this.trans h
  simp only [fadd, isNaN_eq_false_of_finite ha, isNaN_eq_false_of_finite hb, isInf_eq_false_of_finite ha,
    isInf_eq_false_of_finite hb, Bool.or_self, Bool.false_eq_true, if_false]
  split_ifs
  · rw [fmag_fpack _ (by norm_num)]; exact Nat.zero_le m
  · rw [fmag_rne32]; exact rneMag_le_of_le_mul Nat.one_pos hm (by rw [mul_one]; exact hsum)

theorem fmag_fmul_le {a b : Word} {m : Nat} (ha : isFinite a = true) (hb : isFinite b = true) (hm : m ≤ 0x7F800000)
    (h : magUnits (fmag a) * magUnits (fmag b) ≤ magUnits m * 2 ^ 149) : fmag (fmul a b) ≤ m := by
  simp only [fmul, isNaN_eq_false_of_finite ha, isNaN_eq_false_of_finite hb, isInf_eq_false_of_finite ha,
    isInf_eq_false_of_finite hb, Bool.or_self, Bool.false_eq_true, if_false]
  rw [fmag_rne32]
  exact rneMag_le_of_le_mul (Nat.two_pow_pos 149) hm h

theorem fmag_fdiv_le {a b : Word} {m : Nat} (ha : isFinite a = true) (hb : isFinite b = true) (hb0 : fmag b ≠ 0)
    (hm : m ≤ 0x7F800000) (h : magUnits (fmag a) * 2 ^ 149 ≤ magUnits m * magUnits (fmag b)) : fmag (fdiv a b) ≤ m := by
  have hpos : 0 < magUnits (fmag b) := lt_of_le_of_lt (Nat.zero_le _) (magUnits_strictMono (Nat.pos_of_ne_zero hb0))
  have hz : isZero b = false := beq_false_of_ne hb0
  simp only [fdiv, isNaN_eq_false_of_finite ha, isNaN_eq_false_of_finite hb, isInf_eq_false_of_finite ha,
    isInf_eq_false_of_finite hb, hz, Bool.or_self, Bool.false_eq_true, if_false]
  rw [fmag_rne32]
  exact rneMag_le_of_le_mul hpos hm h

/-- The fractional part of a finite value is in [0, 1) (R123). -/
theorem mod1_unitPhase {x : Word} (h : isFinite x = true) : unitPhase (mod1 x) := by
  have hlt : (units x % 2 ^ 149).toNat ≤ magUnits 0x3F800000 * 1 := by
    have h1 : magUnits 0x3F800000 = 2 ^ 149 := by decide +kernel
    have h2 := Int.emod_lt_of_pos (units x) (show (0 : Int) < 2 ^ 149 by norm_num)
    rw [h1, mul_one]
    have := Int.toNat_le.2 h2.le
    omega
  have hle : rneMag (units x % 2 ^ 149).toNat 1 ≤ 0x3F800000 := rneMag_le_of_le_mul Nat.one_pos (by norm_num) hlt
  have hval : (rne32 false (units x % 2 ^ 149).toNat 1).toNat = rneMag (units x % 2 ^ 149).toNat 1 := by
    simp only [rne32, fpack, Bool.false_eq_true, if_false, BitVec.toNat_ofNat]
    omega
  simp only [mod1, h, if_true]
  split_ifs with hone
  · decide
  · have hne : (rne32 false (units x % 2 ^ 149).toNat 1).toNat ≠ 0x3F800000 := fun e => hone (BitVec.eq_of_toNat_eq e)
    simp only [unitPhase]
    omega

/-! ## Ranges -/

/-- A clamped value is within the bounds (R124). -/
theorem clamp_inRange {x lo hi : Word} (hx : isNaN x = false) (hlo : isNaN lo = false) (hhi : isNaN hi = false)
    (h : units lo ≤ units hi) : inRange lo hi (clamp x lo hi) := by
  unfold clamp
  split_ifs with h1 h2
  · exact ⟨hlo, le_rfl, h⟩
  · exact ⟨hhi, h, le_rfl⟩
  · exact ⟨hx, not_lt.1 h1, not_lt.1 h2⟩

/-- A transposition within its bounds is at most 12 semitones in magnitude. -/
theorem fmag_le_of_transpo {x : Word} (h : inRange Config.trMin Config.trMax x) : fmag x ≤ 0x41400000 := by
  obtain ⟨-, hlo, hhi⟩ := h
  rw [show units Config.trMin = -(magUnits 0x41400000 : Int) by decide +kernel] at hlo
  rw [show units Config.trMax = (magUnits 0x41400000 : Int) by decide +kernel] at hhi
  have := natAbs_units x
  exact magUnits_strictMono.le_iff_le.1 (by omega)

/-- A window within its bounds lies between 5 and 300 ms in magnitude. -/
theorem fmag_of_window {m : Word} (h : inRange Config.winMin Config.winMax m) : 0x40A00000 ≤ fmag m ∧ fmag m ≤ 0x43960000 := by
  obtain ⟨-, hlo, hhi⟩ := h
  rw [show units Config.winMin = (magUnits 0x40A00000 : Int) by decide +kernel] at hlo
  rw [show units Config.winMax = (magUnits 0x43960000 : Int) by decide +kernel] at hhi
  have := natAbs_units m
  exact ⟨magUnits_strictMono.le_iff_le.1 (by omega), magUnits_strictMono.le_iff_le.1 (by omega)⟩

/-! ## T2F of values within their bounds (R126, R131) -/

/-- Between the order keys of -1 and 1, X1 to X4 keep Exp2 between those of 1/2 and 2 (R126). -/
theorem exp2Bounds_of_le_one {q : Word} (hq : fmag q ≤ 0x3F800000) (h1 : q ≠ f32One) :
    orderKey f32Half ≤ (exp2Bounds q).1 ∧ (exp2Bounds q).1 ≤ (exp2Bounds q).2 ∧ (exp2Bounds q).2 ≤ orderKey 0x40000000#32 := by
  have hk : 2 ^ 31 - 0x3F800000 ≤ orderKey q ∧ orderKey q < 2 ^ 31 + 0x3F800000 := by
    unfold orderKey
    split_ifs with hs
    · omega
    · refine ⟨by omega, Nat.add_lt_add_left (lt_of_le_of_ne hq fun e => h1 ?_) _⟩
      rw [← fpack_fields q, e, Bool.eq_false_of_not_eq_true hs]
      decide
  rw [exp2Bounds, if_neg (by rw [show orderKey 0xBF800000#32 = 2 ^ 31 - 0x3F800000 by decide]; omega)]
  by_cases h0 : orderKey q < orderKey 0x00000000#32
  · rw [if_pos h0]; decide
  · rw [if_neg h0, if_pos (by rw [show orderKey f32One = 2 ^ 31 + 0x3F800000 by decide]; omega)]; decide

/-- A number moved between the order keys of 1/2 and 2 is a key of a magnitude of at most 2. -/
theorem fmag_ofOrderKey_boundNat_le {lo hi : Nat} (hlo : orderKey f32Half ≤ lo) (hle : lo ≤ hi)
    (hhi : hi ≤ orderKey 0x40000000#32) (b : Bool) (n : Nat) : fmag (ofOrderKey b (boundNat lo hi n)) ≤ 0x40000000 := by
  rw [show orderKey f32Half = 2 ^ 31 + 0x3F000000 by decide] at hlo
  rw [show orderKey 0x40000000#32 = 2 ^ 31 + 0x40000000 by decide] at hhi
  have hb : lo ≤ boundNat lo hi n ∧ boundNat lo hi n ≤ hi := by unfold boundNat; omega
  rw [ofOrderKey, if_neg (by omega), if_neg (by omega), fmag_fpack _ (by omega)]
  omega

/-- Exp2 of a value between -1 and 1 is at most 2 (R126), whichever Exp2 is taken. -/
theorem fmag_exp2_le (f : FnChoice) {q : Word} (hq : fmag q ≤ 0x3F800000) : fmag (exp2 f q) ≤ 0x40000000 := by
  have hfin : isFinite q = true := isFinite_iff.2 (by omega)
  unfold exp2
  rw [isNaN_eq_false_of_finite hfin, isInf_eq_false_of_finite hfin]
  simp only [Bool.false_eq_true, if_false]
  split_ifs with h0 h1 h2
  · decide
  · decide
  · decide
  · obtain ⟨hlo, hle, hhi⟩ := exp2Bounds_of_le_one hq h1
    exact fmag_ofOrderKey_boundNat_le hlo hle hhi _ _

/-- T2F of a transposition and a window within their bounds is at most 400 Hz, so it is finite. -/
theorem transpoToFreq_finite (f : FnChoice) {s m : Word} (hs : inRange Config.trMin Config.trMax s)
    (hm : inRange Config.winMin Config.winMax m) : isFinite (transpoToFreq f s m) = true := by
  have hs' := fmag_le_of_transpo hs
  obtain ⟨hm5, hm300⟩ := fmag_of_window hm
  have hsem : fmag (fdiv s 0x41400000#32) ≤ 0x3F800000 := by
    refine fmag_fdiv_le (isFinite_iff.2 (by omega)) (by decide) (by decide) (by norm_num) ?_
    calc magUnits (fmag s) * 2 ^ 149 ≤ magUnits 0x41400000 * 2 ^ 149 :=
          Nat.mul_le_mul_right _ (magUnits_strictMono.monotone hs')
      _ ≤ magUnits 0x3F800000 * magUnits (fmag 0x41400000#32) := by decide +kernel
  have hexp := fmag_exp2_le f hsem
  have hmul : fmag (fmul (exp2 f (fdiv s 0x41400000#32)) 0x447A0000#32) ≤ 0x44FA0000 := by
    refine fmag_fmul_le (isFinite_iff.2 (by omega)) (by decide) (by norm_num) ?_
    calc magUnits (fmag (exp2 f (fdiv s 0x41400000#32))) * magUnits (fmag 0x447A0000#32)
          ≤ magUnits 0x40000000 * magUnits (fmag 0x447A0000#32) := Nat.mul_le_mul_right _ (magUnits_strictMono.monotone hexp)
      _ ≤ magUnits 0x44FA0000 * 2 ^ 149 := by decide +kernel
  have hdiv : fmag (transpoToFreq f s m) ≤ 0x43C80000 := by
    refine fmag_fdiv_le (isFinite_iff.2 (by omega)) (isFinite_iff.2 (by omega)) (by omega) (by norm_num) ?_
    calc magUnits (fmag (fmul (exp2 f (fdiv s 0x41400000#32)) 0x447A0000#32)) * 2 ^ 149
          ≤ magUnits 0x44FA0000 * 2 ^ 149 := Nat.mul_le_mul_right _ (magUnits_strictMono.monotone hmul)
      _ ≤ magUnits 0x43C80000 * magUnits 0x40A00000 := by decide +kernel
      _ ≤ magUnits 0x43C80000 * magUnits (fmag m) := Nat.mul_le_mul_left _ (magUnits_strictMono.monotone hm5)
  exact isFinite_iff.2 (by omega)

/-! ## The phase step (R151) -/

/-- The binary32 of a legal rate lies between those of the rates' bounds. -/
theorem fmag_i2f_of_rate {n : Nat} (hlo : Config.srMin ≤ n) (hhi : n ≤ Config.srMax) :
    0x45FA0000 ≤ fmag (i2f n) ∧ fmag (i2f n) ≤ 0x483B8000 := by
  rw [i2f, fmag_rne32]
  constructor
  · refine le_rneMag_of_le (by norm_num) ?_
    calc magUnits 0x45FA0000 = Config.srMin * 2 ^ 149 := by decide +kernel
      _ ≤ n * 2 ^ 149 := Nat.mul_le_mul_right _ hlo
  · refine rneMag_le_of_le_mul Nat.one_pos (by norm_num) ?_
    calc n * 2 ^ 149 ≤ Config.srMax * 2 ^ 149 := Nat.mul_le_mul_right _ hhi
      _ = magUnits 0x483B8000 * 1 := by decide +kernel

/-- A phase in [0, 1) advanced by a finite frequency at a legal rate stays in [0, 1): the sum cannot overflow (R151). -/
theorem phaseStep_unitPhase {p f : Word} {sr : Nat} (hp : unitPhase p) (hf : isFinite f = true) (hlo : Config.srMin ≤ sr)
    (hhi : sr ≤ Config.srMax) : unitPhase (mod1 (fadd p (fdiv f (i2f sr)))) := by
  obtain ⟨hr, hr'⟩ := fmag_i2f_of_rate hlo hhi
  have hf' := isFinite_iff.1 hf
  have hinc : fmag (fdiv f (i2f sr)) ≤ 0x7F000000 := by
    refine fmag_fdiv_le hf (isFinite_iff.2 (by omega)) (by omega) (by norm_num) ?_
    calc magUnits (fmag f) * 2 ^ 149 ≤ magUnits 0x7F800000 * 2 ^ 149 :=
          Nat.mul_le_mul_right _ (magUnits_strictMono.monotone hf'.le)
      _ ≤ magUnits 0x7F000000 * magUnits 0x45FA0000 := by decide +kernel
      _ ≤ magUnits 0x7F000000 * magUnits (fmag (i2f sr)) := Nat.mul_le_mul_left _ (magUnits_strictMono.monotone hr)
  have hp' : fmag p ≤ 0x3F800000 := (Nat.mod_le _ _).trans (le_of_lt hp)
  have hsum : fmag (fadd p (fdiv f (i2f sr))) ≤ 0x7F7FFFFF := by
    refine fmag_fadd_le (isFinite_iff.2 (by omega)) (isFinite_iff.2 (by omega)) (by norm_num) ?_
    calc magUnits (fmag p) + magUnits (fmag (fdiv f (i2f sr))) ≤ magUnits 0x3F800000 + magUnits 0x7F000000 :=
          Nat.add_le_add (magUnits_strictMono.monotone hp') (magUnits_strictMono.monotone hinc)
      _ ≤ magUnits 0x7F7FFFFF := by decide +kernel
  exact mod1_unitPhase (isFinite_iff.2 (by omega))

end Sys2Proof.Machine
end

section
/-! PROOF. Every step keeps the numeric invariant of the engine, and with it every phase in [0, 1). -/

namespace Sys2Proof.Machine

theorem oscillatorsLegal_of_eq {s t : State} (ho : t.oscs = s.oscs) (h : s.oscillatorsLegal) : t.oscillatorsLegal := by
  simpa only [State.oscillatorsLegal, State.osc, ho] using h

/-! ## The oscillators -/

theorem setOsc_oscillatorsLegal {s : State} (h : s.oscillatorsLegal) {v ch : Nat} (hv : v < 4) (hch : ch < 8) {o : Osc}
    (hphase : unitPhase o.phase) (hfreq : isFinite o.freq = true) : (s.setOsc v ch o).oscillatorsLegal := by
  intro u c hu hc
  rw [State.osc_setOsc s hv hch o hc]
  split_ifs
  · exact ⟨hphase, hfreq⟩
  · exact h u c hu hc

/-- TYPE and DEBUG are free. -/
theorem setOsc_settings_oscillatorsLegal {s : State} (h : s.oscillatorsLegal) {v ch : Nat} (hv : v < 4) (hch : ch < 8) {o : Osc}
    (hphase : o.phase = (s.osc v ch).phase) (hfreq : o.freq = (s.osc v ch).freq) : (s.setOsc v ch o).oscillatorsLegal :=
  setOsc_oscillatorsLegal h hv hch (by rw [hphase]; exact (h v ch hv hch).1) (by rw [hfreq]; exact (h v ch hv hch).2)

theorem setOscFreq_oscillatorsLegal {s : State} (h : s.oscillatorsLegal) {v ch : Nat} (hv : v < 4) (hch : ch < 8) {f : Word}
    (hf : isFinite f = true) : (s.setOscFreq v f ch).oscillatorsLegal :=
  setOsc_oscillatorsLegal h hv hch (h v ch hv hch).1 hf

theorem zeroPhase_oscillatorsLegal {s : State} (h : s.oscillatorsLegal) {v ch : Nat} (hv : v < 4) (hch : ch < 8) :
    (s.zeroPhase v ch).oscillatorsLegal :=
  setOsc_oscillatorsLegal h hv hch (show unitPhase 0#32 by decide) (h v ch hv hch).2

theorem zeroPhases_oscillatorsLegal {s : State} (h : s.oscillatorsLegal) : s.zeroPhases.oscillatorsLegal := by
  refine loop_induct (fun _ (t : State) => t.oscillatorsLegal) h fun v t hv ht => ?_
  exact loop_induct (fun _ (u : State) => u.oscillatorsLegal) ht fun ch u hch hu =>
    zeroPhase_oscillatorsLegal hu (voice_lt_four hv) (channel_lt_eight hch)

/-- An oscillator step keeps the phases in [0, 1) at a legal rate (R151). -/
theorem oscAdvance_oscillatorsLegal {s : State} (h : s.oscillatorsLegal) (hr : s.rateLegal) (hp : s.prepared = true) {v ch : Nat}
    (hv : v < 4) (hch : ch < 8) : (s.oscAdvance v ch).oscillatorsLegal := by
  obtain ⟨hphase, hfreq⟩ := h v ch hv hch
  obtain ⟨hlo, hhi⟩ := hr.1 hp
  exact setOsc_oscillatorsLegal h hv hch (phaseStep_unitPhase hphase hfreq hlo hhi) hfreq

/-! ## The frequency updates -/

theorem voiceFreqUpdate_oscillatorsLegal {s : State} {v : Nat} (hv : v < s.params.nvoice) (hp : s.parametersLegal)
    (ho : s.oscillatorsLegal) : (s.voiceFreqUpdate v).oscillatorsLegal := by
  have hf := transpoToFreq_finite s.params.expFn (hp.2 v hv) hp.1
  have ho' : (s.setVoice v { s.voice v with
      freq := transpoToFreq s.params.expFn (s.voice v).transpo s.winMs }).oscillatorsLegal := ho
  exact loop_induct (fun _ (t : State) => t.oscillatorsLegal) ho' fun ch t hch ht =>
    setOscFreq_oscillatorsLegal ht (voice_lt_four hv) (channel_lt_eight hch) hf

theorem voiceFreqUpdate_parametersLegal {s : State} {v : Nat} (hv : v < 4) (hp : s.parametersLegal) :
    (s.voiceFreqUpdate v).parametersLegal := by
  refine ⟨by rw [voiceFreqUpdate_winMs]; exact hp.1, fun u hu => ?_⟩
  rw [voiceFreqUpdate_params] at hu
  rw [voiceFreqUpdate_voice s hv]
  split_ifs with e
  · subst e; exact hp.2 u hu
  · exact hp.2 u hu

theorem allFreqUpdate_legal {s : State} (hp : s.parametersLegal) (ho : s.oscillatorsLegal) :
    s.allFreqUpdate.parametersLegal ∧ s.allFreqUpdate.oscillatorsLegal := by
  suffices h : s.allFreqUpdate.params = s.params ∧ s.allFreqUpdate.parametersLegal ∧ s.allFreqUpdate.oscillatorsLegal from h.2
  refine loop_induct (fun _ (t : State) => t.params = s.params ∧ t.parametersLegal ∧ t.oscillatorsLegal) ⟨rfl, hp, ho⟩
    fun v t hv ⟨htp, hp, ho⟩ => ?_
  exact ⟨(voiceFreqUpdate_params v t).trans htp,
    voiceFreqUpdate_parametersLegal (voice_lt_four hv) hp,
    voiceFreqUpdate_oscillatorsLegal (by rw [htp]; exact hv) hp ho⟩

/-! ## The commands -/

/-- Every command's effect keeps SR a legal rate once PREPARED and 0 before (R30, R33). -/
theorem effect_rateLegal {s u : State} {i : Instr} (h : CommandEffect s i u) (hs : s.rateLegal) : u.rateLegal := by
  rcases effect_rate h with ⟨hsr, hp⟩ | ⟨rfl, -⟩
  · simpa only [State.rateLegal, hsr, hp] using hs
  · cases h with
    | prepare hlo hhi =>
      rw [State.prepareWith_frame]
      simp only [State.rateLegal, w32, BitVec.ofNat_toNat, BitVec.setWidth_eq]
      exact ⟨fun _ => ⟨hlo, hhi⟩, fun h => by simp at h⟩

theorem zeroPhases_parametersLegal {s : State} (h : s.parametersLegal) : s.zeroPhases.parametersLegal := by
  rw [State.zeroPhases_frame]; exact h

/-- PREPARE zeroes the phases and recomputes the frequencies from parameters it leaves (R212). -/
theorem prepareWith_legal {s : State} (hp : s.parametersLegal) (ho : s.oscillatorsLegal) (sr blk : Nat) :
    (s.prepareWith sr blk).parametersLegal ∧ (s.prepareWith sr blk).oscillatorsLegal := by
  have hcleared : ∀ c : State, c.parametersLegal → c.oscillatorsLegal → ∀ w : Word,
      { c.zeroPhases with winSamp := w }.allFreqUpdate.parametersLegal ∧
        { c.zeroPhases with winSamp := w }.allFreqUpdate.oscillatorsLegal :=
    fun c hc hc' w => allFreqUpdate_legal (s := { c.zeroPhases with winSamp := w }) (zeroPhases_parametersLegal hc)
      (zeroPhases_oscillatorsLegal hc')
  exact hcleared _ (by rw [State.ringClear_frame]; exact hp) (by rw [State.ringClear_frame]; exact ho) _

theorem setTranspo_legal {t : State} {v : Nat} {c : Word} (hv : v < t.params.nvoice) (hc : inRange Config.trMin Config.trMax c)
    (hp : t.parametersLegal) (ho : t.oscillatorsLegal) :
    ((t.setVoice v { t.voice v with transpo := c }).voiceFreqUpdate v).parametersLegal ∧
      ((t.setVoice v { t.voice v with transpo := c }).voiceFreqUpdate v).oscillatorsLegal := by
  have hv4 : v < 4 := voice_lt_four hv
  have hset : (t.setVoice v { t.voice v with transpo := c }).parametersLegal := by
    refine ⟨hp.1, fun u hu => ?_⟩
    rw [State.voice_setVoice t hv4]
    split_ifs
    · exact hc
    · exact hp.2 u hu
  exact ⟨voiceFreqUpdate_parametersLegal hv4 hset, voiceFreqUpdate_oscillatorsLegal hv hset ho⟩

/-- A PROCESS keeps the phases in [0, 1): its ring and I/O writes move none, and its samples only step oscillators (R219, R220). -/
theorem processBlock_oscillatorsLegal {src : ErrSource} {s u : State} (hr : s.rateLegal) (hp : s.prepared = true)
    (ho : s.oscillatorsLegal) (hu : s.processBlock src = .ok u) : u.oscillatorsLegal := by
  obtain ⟨t, ht, hu⟩ := andThen_eq_ok.1 hu
  obtain ⟨r, hr', hu⟩ := andThen_eq_ok.1 hu
  cases hu
  have hstart : t.oscillatorsLegal ∧ t.rateLegal ∧ t.prepared = true := by
    rw [State.ringWriteBlock_frame ht]; exact ⟨ho, hr, hp⟩
  have hend : r.1.oscillatorsLegal :=
    (outBlock_keeps (P := fun t => t.oscillatorsLegal ∧ t.rateLegal ∧ t.prepared = true)
      (fun _ _ _ hv hch ⟨ho, hr, hp⟩ => ⟨oscAdvance_oscillatorsLegal ho hr hp hv hch, hr, hp⟩) (fun _ h => h) hstart hr').1
  have hw : (r.1.writeBlock r.2).oscs = r.1.oscs := by rw [State.writeBlock_frame]
  exact oscillatorsLegal_of_eq hw hend

theorem effect_engineLegal {s u : State} {i : Instr} (h : CommandEffect s i u) (hs : s.engineLegal) : u.engineLegal := by
  refine ⟨effect_rateLegal h hs.1, ?_⟩
  obtain ⟨hr, hp, ho⟩ := hs
  cases h with
  | prepare => exact prepareWith_legal hp ho _ _
  | setTranspo v c t hv hx hc ht =>
    have hcr : inRange Config.trMin Config.trMax c := by
      rw [hc]; exact clamp_inRange hx (by decide) (by decide) (by decide +kernel)
    rw [State.noteClamp_frame] at ht
    subst ht
    exact setTranspo_legal hv hcr hp ho
  | setWindow c hx hc =>
    have hcr : inRange Config.winMin Config.winMax c := by
      rw [hc]; exact clamp_inRange hx (by decide) (by decide) (by decide +kernel)
    rw [State.noteClamp_frame]
    exact allFreqUpdate_legal ⟨hcr, hp.2⟩ ho
  | process _ hprep hu =>
    refine ⟨?_, processBlock_oscillatorsLegal hr hprep ho hu⟩
    rw [State.processBlock_frame hu]; exact hp
  | oscInit v ch hv hch =>
    exact ⟨hp, zeroPhase_oscillatorsLegal ho (voice_lt_four hv) (channel_lt_eight hch)⟩
  | oscSetFreq v ch hv hch hf =>
    exact ⟨hp, setOscFreq_oscillatorsLegal ho (voice_lt_four hv) (channel_lt_eight hch) hf⟩
  | oscSetType v ch hv hch =>
    exact ⟨hp, setOsc_settings_oscillatorsLegal ho (voice_lt_four hv) (channel_lt_eight hch) rfl rfl⟩
  | oscSetDebug v ch hv hch =>
    exact ⟨hp, setOsc_settings_oscillatorsLegal ho (voice_lt_four hv) (channel_lt_eight hch) rfl rfl⟩
  | oscNext v ch hv hch hprep =>
    exact ⟨hp, oscAdvance_oscillatorsLegal ho hr hprep (voice_lt_four hv) (channel_lt_eight hch)⟩
  | rbInit => rw [State.ringClear_frame]; exact ⟨hp, ho⟩
  | rbWrite _ hcap hu => rw [State.ringWriteBlock_frame hu]; exact ⟨hp, ho⟩
  | rbRead ch src n d r hch hsrc hr => rw [State.ringReadInterp_frame hr]; exact ⟨hp, ho⟩
  | nop | rbConfigure | cvtS2n | cvtT2f => exact ⟨hp, ho⟩

/-! ## Every step -/

theorem resetOf_osc (p : Params) {v ch : Nat} (hv : v < 4) (hch : ch < 8) : (State.resetOf p).osc v ch = {} := by
  have h : State.oscIndex v ch < 32 := by unfold State.oscIndex; omega
  simp [State.osc, State.resetOf, Vector.getD, h]

theorem resetOf_parametersLegal (p : Params) : (State.resetOf p).parametersLegal := by
  refine ⟨?_, fun v _ => ?_⟩
  · change inRange Config.winMin Config.winMax 0x42480000#32; decide +kernel
  · rw [resetOf_voice]; decide +kernel

theorem resetOf_engineLegal (p : Params) : (State.resetOf p).engineLegal := by
  refine ⟨⟨fun h => by simp [State.resetOf] at h, fun _ => rfl⟩, resetOf_parametersLegal p, fun v ch hv hch => ?_⟩
  rw [resetOf_osc p hv hch]; decide

/-- Settles O59: the numeric invariant holds at reset and every command's effect keeps it. -/
theorem phasesStayInUnitInterval : Obligations.PhasesStayInUnitInterval := by
  intro s t hs h
  refine step_keeps_block (P := State.engineLegal) (fun hb hs => ?_) resetOf_engineLegal effect_engineLegal hs h
  simpa only [State.engineLegal, State.rateLegal, State.parametersLegal, State.oscillatorsLegal, hb.params, hb.voice, hb.osc,
    hb.winMs, hb.prepared, hb.sr] using hs

end Sys2Proof.Machine
end

section
/-! PROOF. The register map: an aligned word read of a register offset returns the word the map lists there, and 0 where it lists none. -/

namespace Sys2Proof.Machine

/-! ## The lists of the map -/

/-- The single registers and their words (R22). -/
def State.singleMap (s : State) : List (Nat × Word) :=
  [(0x000, 0x50534331#32), (0x004, s.statusWord), (0x008, s.errinfo), (0x00C, s.irqen), (0x014, s.arg0),
   (0x018, s.arg1), (0x01C, s.result), (0x020, s.blkcnt), (0x024, s.sr), (0x028, s.blksz), (0x02C, s.cap),
   (0x030, s.wptr), (0x034, s.winMs), (0x038, s.winSamp), (0x03C, 0x3F004DCE#32),
   (0x040, w32 (s.params.nch + 16 * s.params.nvoice + 256 * s.params.qdepth + 65536 * 2048)),
   (0x044, 192000#32), (0x048, w32 (s.fifo.length % 32))]

/-- The voice files (R22, R32). -/
def State.voiceMap (s : State) : List (Nat × Word) :=
  (List.range s.params.nvoice).flatMap fun v =>
    [(0x080 + 4 * v, (s.voice v).transpo), (0x090 + 4 * v, (s.voice v).freq)]

/-- The oscillator files (R22, R41). -/
def State.oscMap (s : State) : List (Nat × Word) :=
  (List.range s.params.nvoice).flatMap fun v => (List.range s.params.nch).flatMap fun ch =>
    [(0x100 + 4 * (8 * v + ch), (s.osc v ch).phase), (0x200 + 4 * (8 * v + ch), (s.osc v ch).freq),
     (0x300 + 4 * (8 * v + ch), w32 ((s.osc v ch).type.toNat + if (s.osc v ch).debug then 256 else 0))]

/-- The whole register map (R22). -/
def State.registerMap (s : State) : List (Nat × Word) := s.singleMap ++ s.voiceMap ++ s.oscMap

/-- A lookup at `k` gives `x` if the list has no other value at `k`, and has that one unless `x` is 0. -/
theorem lookup_getD_eq {l : List (Nat × Word)} {k : Nat} {x : Word} (huniq : ∀ y, (k, y) ∈ l → y = x)
    (hmem : x = 0#32 ∨ (k, x) ∈ l) : (l.lookup k).getD 0#32 = x := by
  cases hl : l.lookup k with
  | none =>
    rcases hmem with h | h
    · exact h.symm
    · exact absurd (List.lookup_eq_none_iff.1 hl _ h) (by simp)
  | some y =>
    obtain ⟨l1, l2, rfl, -⟩ := List.lookup_eq_some_iff.1 hl
    exact huniq y (by simp)

/-! ## Every entry reads as its word -/

theorem mem_voiceMap {s : State} {k : Nat} {x : Word} :
    (k, x) ∈ s.voiceMap ↔ ∃ v < s.params.nvoice,
      (k = 0x080 + 4 * v ∧ x = (s.voice v).transpo) ∨ (k = 0x090 + 4 * v ∧ x = (s.voice v).freq) := by
  simp [State.voiceMap]

theorem mem_oscMap {s : State} {k : Nat} {x : Word} :
    (k, x) ∈ s.oscMap ↔ ∃ v < s.params.nvoice, ∃ ch < s.params.nch,
      (k = 0x100 + 4 * (8 * v + ch) ∧ x = (s.osc v ch).phase) ∨ (k = 0x200 + 4 * (8 * v + ch) ∧ x = (s.osc v ch).freq) ∨
        (k = 0x300 + 4 * (8 * v + ch) ∧ x = ocfgWord (s.osc v ch)) := by
  simp [State.oscMap, ocfgWord]

theorem singleMap_values (s : State) : ∀ p ∈ s.singleMap, p.1 < 0x080 ∧ p.2 = s.regValue (singleTarget p.1) := by
  simp [State.singleMap, singleTarget, State.regValue, State.hwcfg, Config.ident, Config.outGain, Config.capMax, Config.blockMax]

theorem targetOf_single {off : Nat} (h : off < 0x080) : targetOf off = singleTarget off := if_pos h

theorem targetOf_voice_slots : ∀ v < 4, targetOf (0x080 + 4 * v) = .transpo v ∧ targetOf (0x090 + 4 * v) = .freq v := by decide

theorem targetOf_osc_slots : ∀ v < 4, ∀ ch < 8, targetOf (0x100 + 4 * (8 * v + ch)) = .phase v ch ∧
    targetOf (0x200 + 4 * (8 * v + ch)) = .ofreq v ch ∧ targetOf (0x300 + 4 * (8 * v + ch)) = .ocfg v ch := by decide

/-- What the map lists at an offset is the value of the register there. -/
theorem eq_regValue_of_mem_registerMap {s : State} {k : Nat} {x : Word} (h : (k, x) ∈ s.registerMap) :
    x = s.regValue (targetOf k) := by
  simp only [State.registerMap, List.mem_append, mem_voiceMap, mem_oscMap] at h
  rcases h with (h | ⟨v, hv, h⟩) | ⟨v, hv, ch, hch, h⟩
  · obtain ⟨hk, hx⟩ := singleMap_values s _ h
    rw [targetOf_single hk]; exact hx
  · obtain ⟨htr, hfr⟩ := targetOf_voice_slots v (voice_lt_four hv)
    rcases h with ⟨rfl, rfl⟩ | ⟨rfl, rfl⟩
    · rw [htr]; exact (if_pos hv).symm
    · rw [hfr]; exact (if_pos hv).symm
  · obtain ⟨hph, hof, hcf⟩ := targetOf_osc_slots v (voice_lt_four hv) ch
      (channel_lt_eight hch)
    rcases h with ⟨rfl, rfl⟩ | ⟨rfl, rfl⟩ | ⟨rfl, rfl⟩
    · rw [hph]; exact (if_pos ⟨hv, hch⟩).symm
    · rw [hof]; exact (if_pos ⟨hv, hch⟩).symm
    · rw [hcf]; exact (if_pos ⟨hv, hch⟩).symm

/-! ## Every register that does not read 0 is listed -/

/-- The register at an offset reads 0, or the map lists its value there. -/
abbrev State.listed (s : State) (off : Nat) (x : Word) : Prop := x = 0#32 ∨ (off, x) ∈ s.registerMap

theorem singleTarget_listed (s : State) (off : Nat) : s.listed off (s.regValue (singleTarget off)) := by
  unfold singleTarget
  split
  all_goals
    simp [State.listed, State.regValue, State.registerMap, State.singleMap, State.hwcfg, Config.ident, Config.outGain, Config.capMax,
      Config.blockMax]

theorem voiceSlot_listed {s : State} {off v : Nat} {x : Word} (h : v < s.params.nvoice → (off, x) ∈ s.voiceMap) :
    s.listed off (s.voiceSlot v x) := by
  unfold State.voiceSlot
  split_ifs with hv
  · exact .inr (List.mem_append_left _ (List.mem_append_right _ (h hv)))
  · exact .inl rfl

theorem oscSlot_listed {s : State} {off v ch : Nat} {x : Word}
    (h : v < s.params.nvoice → ch < s.params.nch → (off, x) ∈ s.oscMap) : s.listed off (s.oscSlot v ch x) := by
  unfold State.oscSlot
  split_ifs with hv
  · exact .inr (List.mem_append_right _ (h hv.1 hv.2))
  · exact .inl rfl

theorem regValue_listed (s : State) {off : Nat} (h4 : off % 4 = 0) : s.listed off (s.regValue (targetOf off)) := by
  cases targetOf_region off with
  | single hhi ht => rw [ht]; exact singleTarget_listed s off
  | transpo hlo hhi ht =>
    rw [ht]; exact voiceSlot_listed fun hv => mem_voiceMap.2 ⟨_, hv, .inl ⟨by omega, rfl⟩⟩
  | freq hlo hhi ht =>
    rw [ht]; exact voiceSlot_listed fun hv => mem_voiceMap.2 ⟨_, hv, .inr ⟨by omega, rfl⟩⟩
  | phase hlo hhi ht =>
    rw [ht]; exact oscSlot_listed fun hv hch => mem_oscMap.2 ⟨_, hv, _, hch, .inl ⟨by omega, rfl⟩⟩
  | ofreq hlo hhi ht =>
    rw [ht]; exact oscSlot_listed fun hv hch => mem_oscMap.2 ⟨_, hv, _, hch, .inr (.inl ⟨by omega, rfl⟩)⟩
  | ocfg hlo hhi ht =>
    rw [ht]; exact oscSlot_listed fun hv hch => mem_oscMap.2 ⟨_, hv, _, hch, .inr (.inr ⟨by omega, rfl⟩)⟩
  | qtranspo hlo hhi ht => rw [ht]; exact .inl rfl
  | qwindow ho ht => rw [ht]; exact .inl rfl
  | iobuf hlo ht => rw [ht]; exact .inl rfl
  | reserved ht => rw [ht]; exact .inl rfl

/-- The map gives the value of every register at an aligned offset (R22). -/
theorem registerMap_lookup (s : State) {off : Nat} (h4 : off % 4 = 0) :
    (s.registerMap.lookup off).getD 0#32 = s.regValue (targetOf off) :=
  lookup_getD_eq (fun _ h => eq_regValue_of_mem_registerMap h) (regValue_listed s h4)

/-! ## The read -/

theorem hostRead_settled {s : State} {off : Nat} (h : s.inflightCommand = none) (hlt : off < Config.ioWindow) :
    s.hostRead off = s.respond (s.regValue (targetOf off)) false := by
  have hun : ∀ t, s.unsettled t = false := fun t => by simp [State.unsettled, h]
  unfold State.hostRead
  split
  · next ch n ht => exact absurd (targetOf_eq_iobuf ht).1 (not_le.2 hlt)
  · rw [hun]; rfl

theorem hostAccess_read {s : State} {off : Nat} (hr : s.rst = false) (h4 : off % 4 = 0) (hlt : off < Config.apertureSize) :
    hostAccess (.read off 4) s = s.hostRead off := by
  simp [hostAccess, hr, accessFormed, h4, hlt]

/-- Settles O42: with nothing unsettled the read answers the register's value, which is what the map lists. -/
theorem registerMapReads : Obligations.RegisterMapReads := by
  intro s off rest hr hi h4 hlt hin
  have hread : step s = .next (State.respond ((s.registerMap.lookup off).getD 0#32) false { s with inputs := rest }) := by
    rw [step_of_cons hin, takeEvent_access, hostAccess_read (s := { s with inputs := rest }) hr h4 (hlt.trans (by decide)),
      hostRead_settled (s := { s with inputs := rest }) hi hlt, registerMap_lookup s h4]
    rfl
  exact hread

end Sys2Proof.Machine
end

section
/-! PROOF. Host accesses: which state a legal read or write steps to, register by register and cell by cell, what a malformed one or one
in conflict records, and which registers the command in flight leaves unsettled. -/

namespace Sys2Proof.Machine

/-! ## The steps of a host access -/

theorem hostAccess_write {s : State} {off : Nat} {w : Word} (hr : s.rst = false) (h4 : off % 4 = 0)
    (hlt : off < Config.apertureSize) : hostAccess (.write off 4 w) s = s.hostWrite off w := by
  simp [hostAccess, hr, accessFormed, h4, hlt]

section

variable {s : State} {off : Nat} {w : Word} {rest : List Event}

theorem step_read (hr : s.rst = false) (h4 : off % 4 = 0) (hlt : off < Config.apertureSize)
    (hin : s.inputs = .access (.read off 4) :: rest) : step s = .next (State.hostRead off { s with inputs := rest }) := by
  rw [step_of_cons hin, takeEvent_access, hostAccess_read (s := { s with inputs := rest }) hr h4 hlt]

theorem step_write (hr : s.rst = false) (h4 : off % 4 = 0) (hlt : off < Config.apertureSize)
    (hin : s.inputs = .access (.write off 4 w) :: rest) :
    step s = .next (State.respond 0#32 false (State.writeEffect (targetOf off) w { s with inputs := rest })) := by
  rw [step_of_cons hin, takeEvent_access, hostAccess_write (s := { s with inputs := rest }) hr h4 hlt]
  rfl

end

/-- Below the I/O window a read answers a free value where the register is unsettled, and its current value elsewhere (R67, R72). -/
theorem hostRead_register {s : State} {off : Nat} (hlt : off < Config.ioWindow) :
    s.hostRead off =
      if s.unsettled (targetOf off) then s.respondFree else s.respond (s.regValue (targetOf off)) false := by
  unfold State.hostRead
  split
  · next ch n ht => exact absurd (targetOf_eq_iobuf ht).1 (not_le.2 hlt)
  · rfl

/-! ## Malformed accesses (R66) -/

theorem accessFormed_eq_false {addr size : Nat} (h : size ≠ 4 ∨ addr % 4 ≠ 0) : accessFormed addr size = false := by
  rcases h with h | h <;> simp [accessFormed, h]

theorem hostAccess_malformed {s : State} {a : Access} {addr size : Nat} {w : Word} (hr : s.rst = false)
    (hf : accessFormed addr size = false) (ha : a = .read addr size ∨ a = .write addr size w) :
    hostAccess a s = s.badAccess := by
  rcases ha with rfl | rfl <;> simp [hostAccess, hr, hf]

theorem errWord_busFormat : errWord .busFormat busSource = 0x0000FF09#32 := by decide

theorem errWord_ioConflict : errWord .ioConflict busSource = 0x0000FF08#32 := by decide

/-- Settles O45: of either kind, the access does what `badAccess` does, and records code 9 with OP 0xFF. -/
theorem malformedAccessErrsOnly : Obligations.MalformedAccessErrsOnly := by
  intro s addr size w rest hr hbad hin
  have hstep : ∀ a, (a = .read addr size ∨ a = .write addr size w) → s.inputs = .access a :: rest →
      step s = .next (State.badAccess { s with inputs := rest }) := fun a ha hin => by
    rw [step_of_cons hin, takeEvent_access,
      hostAccess_malformed (s := { s with inputs := rest }) hr (accessFormed_eq_false hbad) ha]
  have hrec : State.badAccess { s with inputs := rest } = { s with
      inputs := rest
      sticky := s.sticky ||| 0x00002000#32
      errinfo := if s.errinfo.toNat % 256 = 0 then 0x0000FF09#32 else s.errinfo
      resp := some { data := 0#32, err := true } } := by
    rw [← errWord_busFormat]; rfl
  rw [← hrec]
  rcases hin with hin | hin
  · exact hstep _ (.inl rfl) hin
  · exact hstep _ (.inr rfl) hin

/-! ## Writes to registers (R22, R24, R25, R67) -/

/-- A register that takes no write, and a reserved offset, ignore one: every single register but STATUS, ERRINFO, IRQEN, CMD, ARG0 and
ARG1, and every file but QTRANSPO and QWINDOW. -/
theorem writeEffect_ignored {off : Nat} (h4 : off % 4 = 0) (hlt : off < Config.ioWindow)
    (hoff : off ∉ [0x004, 0x008, 0x00C, 0x010, 0x014, 0x018, 0x0A0, 0x0A4, 0x0A8, 0x0AC, 0x0B0]) (w : Word) (s : State) :
    s.writeEffect (targetOf off) w = s := by
  simp only [List.mem_cons, List.not_mem_nil, or_false, not_or] at hoff
  cases targetOf_region off with
  | single hhi ht =>
    rw [ht]
    unfold singleTarget
    split <;> simp_all [State.writeEffect]
  | qtranspo hlo hhi ht => omega
  | qwindow ho ht => omega
  | iobuf hlo ht => omega
  | transpo hlo hhi ht => rw [ht]; rfl
  | freq hlo hhi ht => rw [ht]; rfl
  | phase hlo hhi ht => rw [ht]; rfl
  | ofreq hlo hhi ht => rw [ht]; rfl
  | ocfg hlo hhi ht => rw [ht]; rfl
  | reserved ht => rw [ht]; rfl

/-- Settles O48: the write's effect is that of the target at the offset. -/
theorem registerWrites : Obligations.RegisterWrites := by
  intro s off w rest hr h4 hlt hin
  have hstep := step_write hr h4 (hlt.trans (by decide)) hin
  refine ⟨?_, ?_, ?_, ?_, ?_, fun hoff => by rw [hstep, writeEffect_ignored h4 hlt hoff]; rfl⟩ <;>
    (rintro rfl; exact hstep)

/-! ## The I/O window (R62, R63, R65, R69) -/

theorem targetOf_ioCell {ch n : Nat} (hn : n < 2048) : targetOf (0x10000 + 4 * (2048 * ch + n)) = .iobuf ch n := by
  have hwin : ¬ 0x10000 + 4 * (2048 * ch + n) < Config.ioWindow := by rw [Config.ioWindow]; omega
  simp (disch := omega) only [targetOf, if_neg hwin, if_neg]
  simp only [Config.ioWindow, Config.blockMax]
  congr 1 <;> omega

/-- A byte of a word is a field of it (R65). -/
theorem byteOfWord_eq_extractLsb' (w : Word) (k : Nat) : byteOfWord w k = w.extractLsb' (8 * k) 8 := by
  rw [byteOfWord, BitVec.extractLsb', Nat.shiftRight_eq_div_pow]

/-- Settles O43: the cell's word starts at the aligned offset below the byte's. -/
theorem ioWindowLittleEndian : Obligations.IoWindowLittleEndian := by
  intro s ch n k w hch hn hk hread
  have hcell : (0x10000 + 4 * (2048 * ch + n) + k) / 4 * 4 = 0x10000 + 4 * (2048 * ch + n) := by omega
  have hbyte : (0x10000 + 4 * (2048 * ch + n) + k) % 4 = k := by omega
  rw [State.ioByte, hcell, targetOf_ioCell hn, hbyte]
  simp only [not_le.2 hch, if_false, hread, Option.map_some]
  rw [byteOfWord_eq_extractLsb']

theorem readIobuf_missing {s : State} {ch n : Nat} (h : s.params.nch ≤ ch) : s.readIobuf ch n = s.respond 0#32 false := if_pos h

theorem readIobuf_conflict {s : State} {ch n : Nat} (hch : ch < s.params.nch) (h : s.ioBusy = true) :
    s.readIobuf ch n = (s.recordError .ioConflict busSource).respondFree := by
  rw [State.readIobuf, if_neg (not_le.2 hch), if_pos h]

theorem readIobuf_defined {s : State} {ch n : Nat} {w : Word} (hch : ch < s.params.nch) (h : s.ioBusy = false)
    (hw : (s.ioMem ch).read n = some w) : s.readIobuf ch n = s.respond w false := by
  simp [State.readIobuf, not_le.2 hch, h, hw]

theorem readIobuf_undefined {s : State} {ch n : Nat} (hch : ch < s.params.nch) (h : s.ioBusy = false)
    (hw : (s.ioMem ch).read n = none) : s.readIobuf ch n = s.respondFree := by
  simp [State.readIobuf, not_le.2 hch, h, hw]

theorem writeIobuf_missing {s : State} {ch n : Nat} {w : Word} (h : s.params.nch ≤ ch) : s.writeIobuf ch n w = s := if_pos h

theorem writeIobuf_conflict {s : State} {ch n : Nat} {w : Word} (hch : ch < s.params.nch) (h : s.ioBusy = true) :
    s.writeIobuf ch n w = s.recordError .ioConflict busSource := by
  rw [State.writeIobuf, if_neg (not_le.2 hch), if_pos h]

theorem writeIobuf_free {s : State} {ch n : Nat} {w : Word} (hch : ch < s.params.nch) (h : s.ioBusy = false) :
    s.writeIobuf ch n w = s.ioWrite ch n w := by
  simp [State.writeIobuf, not_le.2 hch, h]

section

variable {s : State} {ch n : Nat} {w : Word} {rest : List Event}

/-- A word read of an I/O cell answers what `readIobuf` does. -/
theorem step_readIobuf (hr : s.rst = false) (hch : ch < 8) (hn : n < 2048)
    (hin : s.inputs = .access (.read (0x10000 + 4 * (2048 * ch + n)) 4) :: rest) :
    step s = .next (State.readIobuf ch n { s with inputs := rest }) := by
  rw [step_read hr (by omega) (by rw [Config.apertureSize]; omega) hin, State.hostRead, targetOf_ioCell hn]

/-- A word write to an I/O cell has the effect of `writeIobuf` and answers 0. -/
theorem step_writeIobuf (hr : s.rst = false) (hch : ch < 8) (hn : n < 2048)
    (hin : s.inputs = .access (.write (0x10000 + 4 * (2048 * ch + n)) 4 w) :: rest) :
    step s = .next (State.respond 0#32 false (State.writeIobuf ch n w { s with inputs := rest })) := by
  rw [step_write hr (by omega) (by rw [Config.apertureSize]; omega) hin, targetOf_ioCell hn, State.writeEffect]

/-- Without a conflict a read of a defined cell answers its word (R62). -/
theorem step_readIobuf_defined (hr : s.rst = false) (hb : s.ioBusy = false) (hch : ch < s.params.nch) (hn : n < 2048)
    (hw : (s.ioMem ch).read n = some w)
    (hin : s.inputs = .access (.read (0x10000 + 4 * (2048 * ch + n)) 4) :: rest) :
    step s = .next { s with inputs := rest, resp := some { data := w, err := false } } := by
  rw [step_readIobuf hr (channel_lt_eight hch) hn hin, readIobuf_defined (s := { s with inputs := rest }) hch hb hw]
  rfl

end

/-- Settles O44: the write stores the word without a conflict, and the cell then reads as it. -/
theorem ioBufferWriteThenRead : Obligations.IoBufferWriteThenRead := by
  refine ⟨?_, ?_, ?_⟩
  · intro s ch n w rest hm hr hb hch hn off hin
    have hch8 : ch < 8 := channel_lt_eight hch
    have hwrite := step_writeIobuf hr hch8 hn hin
    rw [writeIobuf_free (s := { s with inputs := .access (.read off 4) :: rest }) hch hb] at hwrite
    have hcell : ∀ c m, c < 8 → ((s.ioWrite ch n w).ioMem c).read m =
        if c = ch ∧ m = n then some w else (s.ioMem c).read m := fun c m hc => by
      obtain ⟨-, -, hwf, -⟩ := hm ch hch8
      rw [State.ioMem_ioWrite s hch8]
      by_cases h : c = ch
      · subst h; simp [Memory.read_write hwf]
      · simp [h]
    exact ⟨_, hwrite, hcell, rfl, step_readIobuf_defined hr hb hch hn ((hcell ch n hch8).trans (by simp)) rfl⟩
  · intro s ch n rest hr hb hch hn hin
    refine ⟨fun w hw => step_readIobuf_defined hr hb hch hn hw hin, fun hw => ?_⟩
    rw [step_readIobuf hr (channel_lt_eight hch) hn hin, readIobuf_undefined (s := { s with inputs := rest }) hch hb hw]
    rfl
  · intro s ch n w rest hr hch hch8 hn off hin
    rcases hin with hin | hin
    · rw [step_readIobuf hr hch8 hn hin, readIobuf_missing (s := { s with inputs := rest }) hch]; rfl
    · rw [step_writeIobuf hr hch8 hn hin, writeIobuf_missing (s := { s with inputs := rest }) hch]; rfl

theorem ioBusy_of_command {s : State} (h : s.inflightCommand = some .process ∨ s.inflightCommand = some .rbWrite) :
    s.ioBusy = true := by
  rcases h with h | h <;> simp [State.ioBusy, h]

/-- Settles O50: with the buffer taken the write only records code 8, and the read answers a free value besides. -/
theorem ioConflictRecorded : Obligations.IoConflictRecorded := by
  intro s ch n w rest hr hch hn hcmd off noted
  have hch8 : ch < 8 := channel_lt_eight hch
  have hb : s.ioBusy = true := ioBusy_of_command hcmd
  have hnoted : State.recordError .ioConflict busSource { s with inputs := rest } = noted := by
    simp only [noted, ← errWord_ioConflict]; rfl
  refine ⟨fun hin => ?_, fun hin => ?_⟩
  · rw [step_writeIobuf hr hch8 hn hin, writeIobuf_conflict (s := { s with inputs := rest }) hch hb, hnoted]; rfl
  · rw [step_readIobuf hr hch8 hn hin, readIobuf_conflict (s := { s with inputs := rest }) hch hb, hnoted]; rfl

/-! ## What a read changes (R67, R69) -/

/-- A read records nothing unless it is of the I/O window in a conflict. -/
theorem hostRead_frame_noConflict {s : State} {off : Nat} (h : off < Config.ioWindow ∨ s.ioBusy = false) :
    s.hostRead off = { s with resp := (s.hostRead off).resp, freeCount := (s.hostRead off).freeCount } := by
  unfold State.hostRead
  split
  · next ch n ht =>
    have hb : s.ioBusy = false := h.resolve_left (not_lt.2 (targetOf_eq_iobuf ht).1)
    by_cases hch : s.params.nch ≤ ch
    · rw [readIobuf_missing hch]; rfl
    · cases hw : (s.ioMem ch).read n with
      | none => rw [readIobuf_undefined (not_le.1 hch) hb hw]; rfl
      | some w => rw [readIobuf_defined (not_le.1 hch) hb hw]; rfl
  · split_ifs <;> rfl

/-- Settles O49: the frame of a read, and its smaller frame where there is no conflict. -/
theorem hostReadsHaveNoEffect : Obligations.HostReadsHaveNoEffect := by
  intro s off rest hr h4 hlt hin
  refine ⟨_, step_read hr h4 hlt hin, fun h => ?_, ?_⟩
  · rw [hostRead_frame_noConflict (s := { s with inputs := rest }) h]
  · rw [State.hostRead_frame]

end Sys2Proof.Machine
end

section
/-! PROOF. The executor's move runs the decoded command, and a command that goes on leaves the host's side as it was. -/

namespace Sys2Proof.Machine

theorem executorMove_of_decoded {s : State} {e : Entry} {i : Instr} (hr : s.rst = false) (he : s.inflight = some e)
    (hi : decode e.word = .ok i) : executorMove s = exec i s := by
  simp [executorMove, completeEntry, hr, he, hi]

/-- Settles O6: at its turn the executor completes the entry, and completing it is executing the command it decodes to. -/
theorem stepRunsDecodedCommand : Obligations.StepRunsDecodedCommand := by
  intro s e i hr he hi
  refine ⟨fun hin => ?_, fun rest hin => ?_⟩
  · rw [step_of_nil hin, executorMove_of_decoded hr he hi]
  · rw [step_of_cons hin, takeEvent_turn, executorMove_of_decoded (s := { s with inputs := rest }) hr he hi]

/-- Completing leaves the host's side as it is, empties the slot and sets CMDDONE (R23, R72). -/
theorem complete_hostSide (s : State) :
    s.hostSideSame s.complete ∧ s.complete.inflight = none ∧ s.complete.sticky &&& cmdDoneBit = cmdDoneBit := by
  refine ⟨by simp [State.hostSideSame], rfl, ?_⟩
  rw [State.complete_sticky, BitVec.and_or_distrib_right]
  ext i
  simp

/-- Settles O9: an abort is a completion after an error is recorded, and an effect leaves the host's side as it is before its
completion. -/
theorem commandsLeaveHostSide : Obligations.CommandsLeaveHostSide := by
  intro i s t h
  rcases exec_cases h with ⟨c, w, rfl⟩ | ⟨u, hu, rfl⟩
  · exact complete_hostSide (s.recordError c (sourceOf w))
  · have hside := (effect_hostSide hu).1
    obtain ⟨hsame, hdone⟩ := complete_hostSide u
    exact ⟨by simpa [State.hostSideSame] using hside, hdone⟩

end Sys2Proof.Machine
end

section
/-! PROOF. The write set of the command in flight: the offsets R72's table lists are those of the registers `inWriteSet` says are
unsettled, on the slots there are. -/

namespace Sys2Proof.Machine

/-! ## Where a register stands (R22) -/

/-- The offset at which a register stands; 0 for a reserved one, which stands at no one offset. -/
def Target.offset : Target → Nat
  | .ident => 0x000
  | .status => 0x004
  | .errinfo => 0x008
  | .irqen => 0x00C
  | .cmd => 0x010
  | .arg0 => 0x014
  | .arg1 => 0x018
  | .result => 0x01C
  | .blkcnt => 0x020
  | .sr => 0x024
  | .blksz => 0x028
  | .cap => 0x02C
  | .wptr => 0x030
  | .winMs => 0x034
  | .winSamp => 0x038
  | .outGain => 0x03C
  | .hwcfg => 0x040
  | .capMax => 0x044
  | .qcount => 0x048
  | .transpo v => 0x080 + 4 * v
  | .freq v => 0x090 + 4 * v
  | .qtranspo v => 0x0A0 + 4 * v
  | .qwindow => 0x0B0
  | .phase v ch => 0x100 + 4 * (8 * v + ch)
  | .ofreq v ch => 0x200 + 4 * (8 * v + ch)
  | .ocfg v ch => 0x300 + 4 * (8 * v + ch)
  | .iobuf ch n => 0x10000 + 4 * (2048 * ch + n)
  | .reserved => 0

theorem offset_singleTarget (off : Nat) (h : singleTarget off ≠ .reserved) : (singleTarget off).offset = off := by
  revert h
  unfold singleTarget
  split <;> simp [Target.offset]

/-- A register stands at the aligned offset that has it as its target. -/
theorem offset_targetOf {off : Nat} (h4 : off % 4 = 0) (h : targetOf off ≠ .reserved) : (targetOf off).offset = off := by
  cases targetOf_region off with
  | single hhi ht => rw [ht] at h ⊢; exact offset_singleTarget off h
  | reserved ht => exact absurd ht h
  | transpo hlo hhi ht | freq hlo hhi ht | qtranspo hlo hhi ht | qwindow hlo ht | phase hlo hhi ht | ofreq hlo hhi ht
  | ocfg hlo hhi ht | iobuf hlo ht =>
    rw [ht]
    simp only [Target.offset, Config.ioWindow, Config.blockMax] at *
    omega

/-! ## The table of R72 lists what is in the write set -/

theorem mem_voiceFile {p : Params} {base k : Nat} : k ∈ voiceFile p base ↔ ∃ v < p.nvoice, k = base + 4 * v := by
  simp [voiceFile, eq_comm]

theorem mem_oscRow {p : Params} {base v k : Nat} :
    k ∈ oscRow p base v ↔ v < p.nvoice ∧ ∃ ch < p.nch, k = base + 4 * (8 * v + ch) := by
  unfold oscRow
  split_ifs with hv <;> simp [hv, eq_comm]

theorem mem_oscFile {p : Params} {base k : Nat} :
    k ∈ oscFile p base ↔ ∃ v < p.nvoice, ∃ ch < p.nch, k = base + 4 * (8 * v + ch) := by
  simp only [oscFile, List.mem_flatMap, List.mem_range, mem_oscRow]
  exact ⟨fun ⟨v, _, h⟩ => ⟨v, h⟩, fun ⟨v, hv, h⟩ => ⟨v, hv, hv, h⟩⟩

theorem mem_oscCell {p : Params} {base v ch k : Nat} :
    k ∈ oscCell p base v ch ↔ (v < p.nvoice ∧ ch < p.nch) ∧ k = base + 4 * (8 * v + ch) := by
  unfold oscCell
  split_ifs with h <;> simp [h]

theorem oscSlot_mem_oscFile {p : Params} {base v ch : Nat} (hv : v < p.nvoice) (hch : ch < p.nch) :
    base + 4 * (8 * v + ch) ∈ oscFile p base :=
  mem_oscFile.2 ⟨v, hv, ch, hch, rfl⟩

/-- The register is in the write set of the command, and its slot exists (R22, R72). -/
abbrev written (p : Params) (i : Instr) (t : Target) : Prop := slotExists p t = true ∧ inWriteSet i t = true

theorem offset_mem_writeSetOffsets {p : Params} {i : Instr} {t : Target} (h : written p i t) : t.offset ∈ writeSetOffsets p i := by
  obtain ⟨hp, hw⟩ := h
  cases i with
  | nop => cases hw
  | prepare | setWindow | process | rbConfigure =>
    simp only [inWriteSet] at hw
    split at hw <;>
      simp_all [slotExists, writeSetOffsets, Target.offset, mem_voiceFile, oscSlot_mem_oscFile]
  | setTranspo v =>
    simp only [inWriteSet] at hw
    split at hw <;> simp_all [slotExists, writeSetOffsets, Target.offset, mem_oscRow]
  | oscInit v ch | oscSetFreq v ch | oscSetType v ch | oscSetDebug v ch =>
    obtain rfl := eq_of_beq hw
    simp_all [slotExists, writeSetOffsets, Target.offset, mem_oscCell]
  | oscNext v ch =>
    simp only [inWriteSet, Bool.or_eq_true, beq_iff_eq] at hw
    rcases hw with rfl | rfl
    · simp_all [slotExists, writeSetOffsets, Target.offset, mem_oscCell]
    · simp [writeSetOffsets, Target.offset]
  | rbInit | rbWrite | rbRead | cvtS2n | cvtT2f =>
    obtain rfl := eq_of_beq hw
    simp [writeSetOffsets, Target.offset]

/-! ## What the table of R72 lists is in the write set -/

section

variable {p : Params} {i : Instr} {v ch : Nat} (hv : v < p.nvoice)

include hv

theorem written_transpo (hw : inWriteSet i (.transpo v) = true) : written p i (targetOf (0x080 + 4 * v)) := by
  rw [(targetOf_voice_slots v (voice_lt_four hv)).1]
  exact ⟨decide_eq_true hv, hw⟩

theorem written_freq (hw : inWriteSet i (.freq v) = true) : written p i (targetOf (0x090 + 4 * v)) := by
  rw [(targetOf_voice_slots v (voice_lt_four hv)).2]
  exact ⟨decide_eq_true hv, hw⟩

variable (hch : ch < p.nch)

include hch

theorem written_phase (hw : inWriteSet i (.phase v ch) = true) : written p i (targetOf (0x100 + 4 * (8 * v + ch))) := by
  rw [(targetOf_osc_slots v (voice_lt_four hv) ch (channel_lt_eight hch)).1]
  exact ⟨by simp [slotExists, hv, hch], hw⟩

theorem written_ofreq (hw : inWriteSet i (.ofreq v ch) = true) : written p i (targetOf (0x200 + 4 * (8 * v + ch))) := by
  rw [(targetOf_osc_slots v (voice_lt_four hv) ch (channel_lt_eight hch)).2.1]
  exact ⟨by simp [slotExists, hv, hch], hw⟩

theorem written_ocfg (hw : inWriteSet i (.ocfg v ch) = true) : written p i (targetOf (0x300 + 4 * (8 * v + ch))) := by
  rw [(targetOf_osc_slots v (voice_lt_four hv) ch (channel_lt_eight hch)).2.2]
  exact ⟨by simp [slotExists, hv, hch], hw⟩

end

theorem written_of_mem_writeSetOffsets {p : Params} {i : Instr} {off : Nat} (h : off ∈ writeSetOffsets p i) :
    written p i (targetOf off) := by
  cases i with
  | nop => cases h
  | prepare =>
    simp only [writeSetOffsets, List.mem_append, List.mem_cons, List.not_mem_nil, or_false, mem_voiceFile, mem_oscFile] at h
    rcases h with (((h | ⟨v, hv, rfl⟩) | ⟨v, hv, ch, hch, rfl⟩) | ⟨v, hv, ch, hch, rfl⟩) | rfl
    · rcases h with rfl | rfl | rfl | rfl | rfl <;> exact ⟨rfl, rfl⟩
    · exact written_freq hv rfl
    · exact written_ofreq hv hch rfl
    · exact written_phase hv hch rfl
    · exact ⟨rfl, rfl⟩
  | setTranspo v =>
    simp only [writeSetOffsets, List.mem_append, mem_oscRow] at h
    rcases h with h | ⟨hv, ch, hch, rfl⟩
    · split_ifs at h with hv
      · simp only [List.mem_cons, List.not_mem_nil, or_false] at h
        rcases h with rfl | rfl
        · exact written_transpo hv (beq_self_eq_true _)
        · exact written_freq hv (beq_self_eq_true _)
      · cases h
    · exact written_ofreq hv hch (beq_self_eq_true _)
  | setWindow =>
    simp only [writeSetOffsets, List.mem_append, List.mem_cons, List.not_mem_nil, or_false, mem_voiceFile, mem_oscFile] at h
    rcases h with ((rfl | rfl) | ⟨v, hv, rfl⟩) | ⟨v, hv, ch, hch, rfl⟩
    · exact ⟨rfl, rfl⟩
    · exact ⟨rfl, rfl⟩
    · exact written_freq hv rfl
    · exact written_ofreq hv hch rfl
  | process =>
    simp only [writeSetOffsets, List.mem_append, List.mem_cons, List.not_mem_nil, or_false, mem_oscFile] at h
    rcases h with (rfl | ⟨v, hv, ch, hch, rfl⟩) | rfl
    · exact ⟨rfl, rfl⟩
    · exact written_phase hv hch rfl
    · exact ⟨rfl, rfl⟩
  | oscInit v ch =>
    obtain ⟨⟨hv, hch⟩, rfl⟩ := mem_oscCell.1 h
    exact written_phase hv hch (beq_self_eq_true _)
  | oscSetFreq v ch =>
    obtain ⟨⟨hv, hch⟩, rfl⟩ := mem_oscCell.1 h
    exact written_ofreq hv hch (beq_self_eq_true _)
  | oscSetType v ch | oscSetDebug v ch =>
    obtain ⟨⟨hv, hch⟩, rfl⟩ := mem_oscCell.1 h
    exact written_ocfg hv hch (beq_self_eq_true _)
  | oscNext v ch =>
    simp only [writeSetOffsets, List.mem_append, mem_oscCell, List.mem_singleton] at h
    rcases h with ⟨⟨hv, hch⟩, rfl⟩ | rfl
    · exact written_phase hv hch (by simp [inWriteSet])
    · exact ⟨rfl, rfl⟩
  | rbConfigure =>
    simp only [writeSetOffsets, List.mem_cons, List.not_mem_nil, or_false] at h
    rcases h with rfl | rfl | rfl <;> exact ⟨rfl, rfl⟩
  | rbInit | rbWrite | rbRead | cvtS2n | cvtT2f =>
    obtain rfl := List.mem_singleton.1 h
    exact ⟨rfl, rfl⟩

theorem mem_writeSetOffsets_iff {p : Params} {i : Instr} {off : Nat} (h4 : off % 4 = 0) :
    off ∈ writeSetOffsets p i ↔ written p i (targetOf off) := by
  refine ⟨written_of_mem_writeSetOffsets, fun h => ?_⟩
  have hreg : targetOf off ≠ .reserved := fun e => by rw [e] at h; cases i <;> cases h.2
  rw [← offset_targetOf h4 hreg]
  exact offset_mem_writeSetOffsets h

/-! ## The read -/

/-- STATUS, ERRINFO, IRQEN and QCOUNT are in no write set (R72). -/
theorem host_registers_not_written (p : Params) (i : Instr) :
    ¬ written p i .status ∧ ¬ written p i .errinfo ∧ ¬ written p i .irqen ∧ ¬ written p i .qcount := by
  cases i <;> simp [inWriteSet]

theorem unsettled_eq_written {s : State} {i : Instr} (h : s.inflightCommand = some i) (t : Target) :
    s.unsettled t = decide (written s.params i t) := by
  simp [State.unsettled, h, Bool.decide_and]

/-- Settles O51: a read answers a free value exactly where the register is written, and the table lists where that is. -/
theorem writeSetUnsettledInFlight : Obligations.WriteSetUnsettledInFlight := by
  intro s i off rest hr hi h4 hlt hin answer
  have hread := step_read hr h4 (hlt.trans (by decide)) hin
  rw [hostRead_register hlt, unsettled_eq_written (s := { s with inputs := rest }) hi] at hread
  have current : ¬ written s.params i (targetOf off) → step s = .next (answer (s.regValue (targetOf off))) := fun h => by
    rw [hread, if_neg (by simpa using h)]; rfl
  obtain ⟨hst, herr, hirq, hq⟩ := host_registers_not_written s.params i
  refine ⟨fun h => ?_, fun h => current fun hw => h ((mem_writeSetOffsets_iff h4).2 hw), ?_, ?_, ?_, ?_⟩
  · rw [hread, if_pos (decide_eq_true ((mem_writeSetOffsets_iff h4).1 h))]; rfl
  · rintro rfl; exact current hst
  · rintro rfl; exact current herr
  · rintro rfl; exact current hirq
  · rintro rfl; exact current hq

end Sys2Proof.Machine
end

section
/-! PROOF. Undefined cells: which reads of RB_WRITE, RB_READ and PROCESS reach one, and that these and no others stop the command. -/

namespace Sys2Proof.Machine

/-! ## Computations that stop exactly when something holds -/

/-- The computation stops exactly when `bad` holds, and then at a fault that meets `names`; otherwise its result meets `post`. -/
def Runs {α : Type} (names : Fault → Prop) (bad : Prop) (post : α → Prop) : Except Fault α → Prop
  | .error f => bad ∧ names f
  | .ok a => ¬ bad ∧ post a

namespace Runs

variable {α β σ : Type} {names : Fault → Prop} {p q : Prop} {Q : α → Prop} {R : β → Prop} {x : Except Fault α}

theorem stops (h : Runs names p Q x) (hp : p) : ∃ f, x = .error f ∧ names f := by
  cases x with
  | error f => exact ⟨f, rfl, h.2⟩
  | ok a => exact absurd hp h.1

theorem succeeds (h : Runs names p Q x) (hp : ¬ p) : ∃ a, x = .ok a ∧ Q a := by
  cases x with
  | error f => exact absurd h.1 hp
  | ok a => exact ⟨a, rfl, h.2⟩

theorem ok {a : α} (hp : ¬ p) (h : Q a) : Runs names p Q (.ok a) := ⟨hp, h⟩

theorem imp {Q' : α → Prop} (h : Runs names p Q x) (hQ : ∀ a, Q a → Q' a) : Runs names p Q' x := by
  cases x with
  | error f => exact h
  | ok a => exact ⟨h.1, hQ a h.2⟩

theorem andThen (hx : Runs names p Q x) {k : α → Except Fault β} (hk : ∀ a, Q a → Runs names q R (k a)) :
    Runs names (p ∨ q) R (andThen x k) := by
  cases x with
  | error f => exact ⟨.inl hx.1, hx.2⟩
  | ok a =>
    have hka := hk a hx.2
    rw [andThen_ok]
    cases hkx : k a with
    | error f => rw [hkx] at hka; exact ⟨.inr hka.1, hka.2⟩
    | ok b => rw [hkx] at hka; exact ⟨not_or.2 ⟨hx.1, hka.1⟩, hka.2⟩

/-- Nothing stops once the first part has its result. -/
theorem map (hx : Runs names p Q x) {g : α → β} (hg : ∀ a, Q a → R (g a)) :
    Runs names p R (Machine.andThen x fun a => .ok (g a)) := by
  cases x with
  | error f => exact hx
  | ok a => exact ⟨hx.1, hg a hx.2⟩

/-- A loop stops exactly when one of its rounds does. -/
theorem loopE {n : Nat} {body : Nat → σ → Except Fault σ} {s : σ} {bad : Nat → Prop} (P : Nat → σ → Prop) (h0 : P 0 s)
    (hs : ∀ k t, k < n → P k t → Runs names (bad k) (P (k + 1)) (body k t)) :
    Runs names (∃ k, k < n ∧ bad k) (P n) (loopE n body s) := by
  induction n with
  | zero => exact .ok (by simp) h0
  | succ n ih =>
    have hn := (ih fun k t hk => hs k t (by omega)).andThen fun t ht => hs n t (by omega) ht
    have hiff : ((∃ k, k < n ∧ bad k) ∨ bad n) ↔ ∃ k, k < n + 1 ∧ bad k := by
      simp only [Nat.lt_succ_iff_lt_or_eq, or_and_right, exists_or, exists_eq_left]
    rw [loopE_succ, ← hiff]
    exact hn

end Runs

/-! ## Writing a block (R183) -/

namespace State

/-- The fault names an undefined I/O cell of the block (R63, spec/93 U4). -/
def namesIoCell (s : State) (f : Fault) : Prop :=
  ∃ ch n, ch < s.params.nch ∧ n < s.blksz.toNat ∧ (s.ioMem ch).read n = none ∧ f = .undefinedIoCell ch n

/-- The fault names an undefined ring cell in use (R61, spec/93 U3). -/
def namesRingCell (s : State) (f : Fault) : Prop :=
  ∃ ch i, ch < s.params.nch ∧ i < s.cap.toNat ∧ (s.ringMem ch).read i = none ∧ f = .undefinedRingCell ch i

theorem ioRead_runs {s : State} {ch n : Nat} (hch : ch < s.params.nch) (hn : n < s.blksz.toNat) :
    Runs s.namesIoCell ((s.ioMem ch).read n = none) (fun _ => True) (s.ioRead ch n) := by
  unfold ioRead
  cases h : (s.ioMem ch).read n with
  | none => exact ⟨rfl, ch, n, hch, hn, h, rfl⟩
  | some x => exact .ok (by simp) trivial

/-- `t` is `s` but for the ring. -/
def sameButRing (s t : State) : Prop := ∃ r, t = { s with ring := r }

/-- Writing the block stops exactly when a cell of it is undefined; it reads the I/O buffer, and writes the ring only. -/
theorem ringWriteBlock_runs (s : State) :
    Runs s.namesIoCell (∃ ch, ch < s.params.nch ∧ ∃ n, n < s.blksz.toNat ∧ (s.ioMem ch).read n = none) (fun _ => True)
      s.ringWriteBlock := by
  refine (Runs.loopE (fun _ => s.sameButRing) ⟨s.ring, rfl⟩ ?_).map fun _ _ => trivial
  rintro ch _ hch ⟨r, rfl⟩
  refine Runs.loopE (fun _ => s.sameButRing) ⟨r, rfl⟩ ?_
  rintro n _ hn ⟨r', rfl⟩
  exact (ioRead_runs (s := s) hch hn).map fun x _ => ⟨_, rfl⟩

theorem not_blockDefined_iff {s : State} :
    ¬ s.blockDefined ↔ ∃ ch, ch < s.params.nch ∧ ∃ n, n < s.blksz.toNat ∧ (s.ioMem ch).read n = none := by
  simp [blockDefined]

/-! ## Interpolated reads (R187) -/

theorem readInRange_iff {s : State} {n : Int} {d : Word} : s.readInRange n d = true ↔ s.tapsInRange n d := by
  simp only [readInRange, Bool.and_eq_true, decide_eq_true_eq, and_assoc]
  rfl

/-- A read with a fraction has its older tap one sample behind the newer (R187). -/
theorem olderAge_of_fraction {s : State} {n : Int} {d : Word} (hz : isZero (splitFrac d) = false) :
    s.olderAge n d = s.tapAge n d + 1 := by
  rw [olderAge, hz]; rfl

theorem cap_toNat_ne_zero {s : State} (hcap : s.cap ≠ 0#32) : s.cap.toNat ≠ 0 := fun h => hcap (BitVec.eq_of_toNat_eq h)

theorem ageCell_lt {s : State} (hcap : s.cap ≠ 0#32) (a : Int) : s.ageCell a < s.cap.toNat := by
  have hpos : 0 < s.cap.toNat := Nat.pos_of_ne_zero (cap_toNat_ne_zero hcap)
  have hlt := Int.emod_lt_of_pos ((s.wptr.toNat : Int) - 1 - a) (Int.natCast_pos.2 hpos)
  unfold ageCell
  omega

section

variable {s : State} {ch : Nat} (hch : ch < s.params.nch) (hcap : s.cap ≠ 0#32)

include hch hcap

theorem ringRead_runs (a : Int) :
    Runs s.namesRingCell ((s.ringMem ch).read (s.ageCell a) = none) (fun _ => True) (s.ringRead ch (s.ageCell a)) := by
  unfold ringRead
  cases h : (s.ringMem ch).read (s.ageCell a) with
  | none => exact ⟨rfl, ch, _, hch, ageCell_lt hcap a, h, rfl⟩
  | some x => exact .ok (by simp) trivial

/-- The value of a read is stopped by its newer tap, or, where it interpolates, by its older one. -/
theorem interpolate_runs (n : Int) (d : Word) :
    Runs s.namesRingCell
      ((s.ringMem ch).read (s.ageCell (s.tapAge n d)) = none ∨
        isZero (splitFrac d) = false ∧ (s.ringMem ch).read (s.ageCell (s.tapAge n d + 1)) = none)
      (fun _ => True) (s.interpolate ch n d) := by
  refine (ringRead_runs hch hcap (s.tapAge n d)).andThen fun x _ => ?_
  cases hz : isZero (splitFrac d) with
  | true => exact .ok (by simp) trivial
  | false =>
    simp only [Bool.false_eq_true, if_false, true_and, olderAge_of_fraction hz]
    exact (ringRead_runs hch hcap (s.tapAge n d + 1)).map fun _ _ => trivial

/-- A read stops exactly when it reaches an undefined cell; otherwise it records at most an error (R188). -/
theorem ringReadInterp_runs (src : ErrSource) (n : Int) (d : Word) :
    Runs s.namesRingCell (s.readReachesUndefined ch n d) (fun r => ∃ m e, r.1 = { s with sticky := m, errinfo := e })
      (s.ringReadInterp src ch n d) := by
  unfold ringReadInterp
  by_cases hr : s.tapsInRange n d
  · rw [if_pos (readInRange_iff.2 hr), readReachesUndefined, and_iff_right hr]
    exact (interpolate_runs hch hcap n d).map fun _ _ => ⟨s.sticky, s.errinfo, rfl⟩
  · rw [if_neg (mt readInRange_iff.1 hr)]
    exact .ok (fun h => hr h.1) ⟨_, _, rfl⟩

end

end State

/-! ## Where the oscillators stand in the middle of a block (R151, R219, R220) -/

/-- The steps oscillator (v', c') has taken when PROCESS, in a block of `blk` samples, is to add voice `v` to sample `n` of channel `ch`. -/
def stepsTaken (blk ch n v v' c' : Nat) : Nat :=
  if c' < ch then blk else if c' = ch then (if v' < v then n + 1 else n) else 0

/-- `x` is what `u` has become when voice `v` is to be added to sample `n` of channel `ch`: each oscillator has taken its steps, and
beside that at most errors were recorded. -/
structure Midway (u : State) (ch n v : Nat) (x : State) : Prop where
  frame : ∃ os m e, x = { u with oscs := os, sticky := m, errinfo := e }
  osc : ∀ v' c', v' < u.params.nvoice → c' < 8 →
    x.osc v' c' = { u.osc v' c' with phase := u.phaseAt v' c' (stepsTaken u.blksz.toNat ch n v v' c') }

namespace Midway

variable {u x : State} {ch n v : Nat}

theorem params (h : Midway u ch n v x) : x.params = u.params := by obtain ⟨os, m, e, rfl⟩ := h.frame; rfl

theorem blksz (h : Midway u ch n v x) : x.blksz = u.blksz := by obtain ⟨os, m, e, rfl⟩ := h.frame; rfl

theorem start (u : State) : Midway u 0 0 0 u := by
  refine ⟨⟨u.oscs, u.sticky, u.errinfo, rfl⟩, fun v' c' _ _ => ?_⟩
  have h0 : stepsTaken u.blksz.toNat 0 0 0 v' c' = 0 := by simp [stepsTaken]
  rw [h0]
  rfl

/-- The same steps, counted from another place in the block. -/
theorem of_steps {ch' n' w : Nat} (h : Midway u ch n v x) (hs : ∀ v' c', v' < u.params.nvoice →
    stepsTaken u.blksz.toNat ch' n' w v' c' = stepsTaken u.blksz.toNat ch n v v' c') : Midway u ch' n' w x :=
  ⟨h.frame, fun v' c' hv hc => by rw [hs v' c' hv]; exact h.osc v' c' hv hc⟩

theorem nextSample (h : Midway u ch n u.params.nvoice x) : Midway u ch (n + 1) 0 x :=
  h.of_steps fun v' c' hv => by simp [stepsTaken, hv]

theorem nextChannel (h : Midway u ch u.blksz.toNat 0 x) : Midway u (ch + 1) 0 0 x :=
  h.of_steps fun v' c' _ => by unfold stepsTaken; split_ifs <;> omega

theorem note (h : Midway u ch n v x) (m e : Word) : Midway u ch n v { x with sticky := m, errinfo := e } := by
  obtain ⟨⟨os, _, _, rfl⟩, hosc⟩ := h
  exact ⟨⟨os, m, e, rfl⟩, hosc⟩

theorem phase (h : Midway u ch n v x) (hv : v < u.params.nvoice) (hch : ch < 8) : (x.osc v ch).phase = u.phaseAt v ch n := by
  rw [h.osc v ch hv hch]
  simp [stepsTaken]

/-- The step of the oscillator that is read. -/
theorem advance (h : Midway u ch n v x) (hv : v < u.params.nvoice) (hch : ch < 8) : Midway u ch n (v + 1) (x.oscAdvance v ch) := by
  obtain ⟨⟨os, m, e, rfl⟩, hosc⟩ := h
  refine ⟨⟨_, m, e, rfl⟩, fun v' c' hv' hc' => ?_⟩
  rw [State.oscAdvance, State.osc_setOsc _ (voice_lt_four hv) hch _ hc']
  split_ifs with heq
  · obtain ⟨rfl, rfl⟩ := heq
    have hn : stepsTaken u.blksz.toNat c' n v' v' c' = n := by simp [stepsTaken]
    have hn1 : stepsTaken u.blksz.toNat c' n (v' + 1) v' c' = n + 1 := by simp [stepsTaken]
    rw [State.oscInc, hosc v' c' hv hch, hn, hn1]
    rfl
  · rw [hosc v' c' hv' hc']
    have hsame : stepsTaken u.blksz.toNat ch n (v + 1) v' c' = stepsTaken u.blksz.toNat ch n v v' c' := by
      unfold stepsTaken
      split_ifs <;> omega
    rw [hsame]

end Midway

/-! ## The reads of a PROCESS (R219, R220) -/

section

variable {u x : State} {ch : Nat} (src : ErrSource) (hcap : u.cap ≠ 0#32)

include hcap

/-- In the middle of a block a read reaches what it does at the block's start: the ring and the cursor are those of `u`. -/
theorem Midway.read_runs {c n v : Nat} (h : Midway u c n v x) (hch : ch < u.params.nch) (i : Int) (d : Word) :
    Runs u.namesRingCell (u.readReachesUndefined ch i d) (fun r => Midway u c n v r.1) (x.ringReadInterp src ch i d) := by
  obtain ⟨os, m, e, rfl⟩ := h.frame
  have hread := State.ringReadInterp_runs (s := { u with oscs := os, sticky := m, errinfo := e }) hch hcap src i d
  refine hread.imp fun r hr => ?_
  obtain ⟨m', e', hr⟩ := hr
  rw [hr]
  exact h.note m' e'

/-- Adding voice `v` to sample `n` of channel `ch` stops exactly when one of its two reads reaches an undefined cell. -/
theorem voiceTap_runs {n v : Nat} (hx : Midway u ch n v x) (hv : v < u.params.nvoice) (hch : ch < u.params.nch) :
    Runs u.namesRingCell
      (u.readReachesUndefined ch ((n : Int) - u.winSamp.toNat) (u.delayA v ch n) ∨
        u.readReachesUndefined ch ((n : Int) - u.winSamp.toNat) (u.delayB v ch n))
      (fun r => Midway u ch n (v + 1) r.1) (x.voiceTap src v ch n) := by
  have hphase := hx.phase hv (channel_lt_eight hch)
  have hadv := hx.advance hv (channel_lt_eight hch)
  obtain ⟨os, m, e, rfl⟩ := hx.frame
  unfold State.voiceTap
  rw [hphase]
  exact (hadv.read_runs src hcap hch _ _).andThen fun ra ha => (ha.read_runs src hcap hch _ _).map fun rb hb => hb

theorem outSample_runs {n : Nat} (hx : Midway u ch n 0 x) (hch : ch < u.params.nch) :
    Runs u.namesRingCell
      (∃ v, v < u.params.nvoice ∧ (u.readReachesUndefined ch ((n : Int) - u.winSamp.toNat) (u.delayA v ch n) ∨
        u.readReachesUndefined ch ((n : Int) - u.winSamp.toNat) (u.delayB v ch n)))
      (fun r => Midway u ch (n + 1) 0 r.1) (x.outSample src ch n) := by
  unfold State.outSample
  rw [hx.params]
  refine (Runs.loopE (fun v r => Midway u ch n v r.1) hx fun v r hv hr => ?_).imp fun r hr => hr.nextSample
  exact (voiceTap_runs src hcap hr hv hch).map (R := fun r : State × Word => Midway u ch n (v + 1) r.1) fun _ ha => ha

theorem outChannel_runs (hx : Midway u ch 0 0 x) (hch : ch < u.params.nch) :
    Runs u.namesRingCell
      (∃ n, n < u.blksz.toNat ∧ ∃ v, v < u.params.nvoice ∧
        (u.readReachesUndefined ch ((n : Int) - u.winSamp.toNat) (u.delayA v ch n) ∨
          u.readReachesUndefined ch ((n : Int) - u.winSamp.toNat) (u.delayB v ch n)))
      (fun r => Midway u (ch + 1) 0 0 r.1) (x.outChannel src ch) := by
  unfold State.outChannel
  rw [hx.blksz]
  refine (Runs.loopE (fun n r => Midway u ch n 0 r.1) hx fun n r _ hr => ?_).imp fun r hr => hr.nextChannel
  exact (outSample_runs src hcap hr hch).map (R := fun r : State × List Word => Midway u ch (n + 1) 0 r.1) fun _ ha => ha

/-- The samples of a block stop exactly when one of their reads reaches an undefined cell. -/
theorem outBlock_runs : Runs u.namesRingCell u.processReadsUndefined (fun _ => True) (u.outBlock src) := by
  have hswap : u.processReadsUndefined ↔ ∃ ch, ch < u.params.nch ∧ ∃ n, n < u.blksz.toNat ∧ ∃ v, v < u.params.nvoice ∧
      (u.readReachesUndefined ch ((n : Int) - u.winSamp.toNat) (u.delayA v ch n) ∨
        u.readReachesUndefined ch ((n : Int) - u.winSamp.toNat) (u.delayB v ch n)) := by
    unfold State.processReadsUndefined
    constructor
    · rintro ⟨ch, hch, v, hv, n, hn, h⟩; exact ⟨ch, hch, n, hn, v, hv, h⟩
    · rintro ⟨ch, hch, n, hn, v, hv, h⟩; exact ⟨ch, hch, v, hv, n, hn, h⟩
  rw [hswap]
  refine (Runs.loopE (fun ch r => Midway u ch 0 0 r.1) (Midway.start u) fun ch r hch hr => ?_).imp fun _ _ => trivial
  exact (outChannel_runs src hcap hr hch).map (R := fun r : State × List (List Word) => Midway u (ch + 1) 0 0 r.1) fun _ ha => ha

end

/-! ## The commands -/

section

variable {s : State} {f : Fault}

theorem exec_rbWrite (hcap : s.cap ≠ 0#32) : exec .rbWrite s = finishE s.ringWriteBlock := if_neg (State.cap_toNat_ne_zero hcap)

theorem exec_process (hp : s.prepared = true) : exec .process s = finishE (s.processBlock (sourceOf (encode .process))) :=
  if_pos hp

theorem exec_rbRead_of_error {ch : Fin 16} (hch : ch.val < s.params.nch) (hcap : s.cap ≠ 0#32)
    (hr : s.tapsInRange (i32 s.operand0) s.operand1)
    (h : s.interpolate ch (i32 s.operand0) s.operand1 = .error f) : exec (.rbRead ch) s = .fault f := by
  have hwf : (Instr.rbRead ch).wellFormed s.params = true := by
    simp [Instr.wellFormed, Instr.voiceLegal, Instr.channelLegal, Instr.voice?, Instr.channel?, hch]
  have hread : s.ringReadInterp (sourceOf (encode (.rbRead ch))) ch (i32 s.operand0) s.operand1 = .error f := by
    rw [State.ringReadInterp, if_pos (State.readInRange_iff.2 hr), h, andThen_error]
  simp only [exec, execRbRead, hwf, if_true, if_neg (State.cap_toNat_ne_zero hcap), hread, andThen_error]
  rfl

end

section

variable {s : State} {ch : Nat} {n : Int} {d : Word}

theorem ringRead_undefined {i : Nat} (h : (s.ringMem ch).read i = none) :
    s.ringRead ch i = .error (.undefinedRingCell ch i) := by
  rw [State.ringRead, h]

/-- The newer tap is read first (R187). -/
theorem interpolate_newer_undefined (h : (s.ringMem ch).read (s.ageCell (s.tapAge n d)) = none) :
    s.interpolate ch n d = .error (.undefinedRingCell ch (s.ageCell (s.tapAge n d))) := by
  rw [State.interpolate, show s.newerAge n d = s.tapAge n d from rfl, ringRead_undefined h, andThen_error]

theorem interpolate_older_undefined (h : (s.ringMem ch).read (s.ageCell (s.tapAge n d)) ≠ none)
    (hz : isZero (splitFrac d) = false) (h' : (s.ringMem ch).read (s.ageCell (s.tapAge n d + 1)) = none) :
    s.interpolate ch n d = .error (.undefinedRingCell ch (s.ageCell (s.tapAge n d + 1))) := by
  obtain ⟨x, hx⟩ := Option.ne_none_iff_exists'.1 h
  have hnewer : s.ringRead ch (s.ageCell (s.newerAge n d)) = .ok x := by
    rw [State.ringRead, show s.newerAge n d = s.tapAge n d from rfl, hx]
  rw [State.interpolate, hnewer, andThen_ok, if_neg (by simp [hz]), State.olderAge_of_fraction hz, ringRead_undefined h',
    andThen_error]

end

/-- Settles O26: each command stops exactly at the undefined cells its reads reach. -/
theorem undefinedCellsFault : Obligations.UndefinedCellsFault := by
  refine ⟨fun s hcap hb => ?_, fun s ch hch hcap hr => ?_, fun s hp hcap hb => ?_⟩
  · obtain ⟨_, hf, ch, n, hch, hn, hnone, rfl⟩ := s.ringWriteBlock_runs.stops (State.not_blockDefined_iff.1 hb)
    refine ⟨ch, n, hch, hn, hnone, ?_, fun hp => ?_⟩
    · rw [exec_rbWrite hcap, hf]; rfl
    · rw [exec_process hp, State.processBlock, hf]; rfl
  · exact ⟨fun h => exec_rbRead_of_error hch hcap hr (interpolate_newer_undefined h),
      fun h hz h' => exec_rbRead_of_error hch hcap hr (interpolate_older_undefined h hz h')⟩
  · obtain ⟨u, hu, -⟩ := s.ringWriteBlock_runs.succeeds fun h => State.not_blockDefined_iff.2 h hb
    have hfr := State.ringWriteBlock_frame hu
    have hucap : u.cap = s.cap := by rw [hfr]
    have hrun := outBlock_runs (sourceOf (encode .process)) (hucap ▸ hcap)
    refine ⟨u, hu, fun hbad => ?_, fun hbad => ?_⟩
    · obtain ⟨_, hf, ch, i, hch, hi, hnone, rfl⟩ := hrun.stops hbad
      have hparams : u.params = s.params := by rw [hfr]
      refine ⟨ch, i, hparams ▸ hch, hucap ▸ hi, hnone, ?_⟩
      rw [exec_process hp, State.processBlock, hu, andThen_ok, hf]; rfl
    · obtain ⟨r, hr, -⟩ := hrun.succeeds hbad
      rw [exec_process hp, State.processBlock, hu, andThen_ok, hr]
      exact ⟨_, rfl⟩

end Sys2Proof.Machine
end

section
/-! PROOF. Decoding and encoding: a word is its four fields, the fields of a command's encoding are what decoding asks of a word, and the
opcode a word carries says which fields its command uses. -/

namespace Sys2Proof

/-! ## Words and their fields (R90) -/

/-- A word is its four fields. -/
theorem word_eq_of_fields {w w' : Word} (hop : opField w = opField w') (hv : vField w = vField w') (hch : chField w = chField w')
    (hrsv : rsvField w = rsvField w') : w = w' := by
  have hv := congrArg Fin.val hv
  have hch := congrArg Fin.val hch
  simp only [opField, vField, chField, rsvField, Fin.ofNat] at hop hv hch hrsv
  apply BitVec.eq_of_toNat_eq
  omega

theorem encodedFields (i : Instr) : Laws.EncodedFields.Statement i := by
  cases i with
  | nop => exact Laws.EncodedFields.nop
  | prepare => exact Laws.EncodedFields.prepare
  | setTranspo v => exact Laws.EncodedFields.setTranspo v
  | setWindow => exact Laws.EncodedFields.setWindow
  | process => exact Laws.EncodedFields.process
  | oscInit v ch => exact Laws.EncodedFields.oscInit v ch
  | oscSetFreq v ch => exact Laws.EncodedFields.oscSetFreq v ch
  | oscSetType v ch => exact Laws.EncodedFields.oscSetType v ch
  | oscSetDebug v ch => exact Laws.EncodedFields.oscSetDebug v ch
  | oscNext v ch => exact Laws.EncodedFields.oscNext v ch
  | rbConfigure => exact Laws.EncodedFields.rbConfigure
  | rbInit => exact Laws.EncodedFields.rbInit
  | rbWrite => exact Laws.EncodedFields.rbWrite
  | rbRead ch => exact Laws.EncodedFields.rbRead ch
  | cvtS2n => exact Laws.EncodedFields.cvtS2n
  | cvtT2f => exact Laws.EncodedFields.cvtT2f

/-! ## The opcode table (R93, R95) -/

/-- The assigned opcodes (R93). -/
def assignedOps : List Nat :=
  [0x00, 0x01, 0x02, 0x03, 0x04, 0x10, 0x11, 0x12, 0x13, 0x14, 0x20, 0x21, 0x22, 0x23, 0x30, 0x31]

/-- The opcodes of the commands that use V (R93). -/
def voiceOps : List Nat := [0x02, 0x10, 0x11, 0x12, 0x13, 0x14]

/-- The opcodes of the commands that use CH (R93). -/
def channelOps : List Nat := [0x10, 0x11, 0x12, 0x13, 0x14, 0x23]

/-- A command's opcode (R93); `select_row` ties it to the decoder. -/
def Instr.opcode : Instr → Nat
  | .nop => 0x00
  | .prepare => 0x01
  | .setTranspo _ => 0x02
  | .setWindow => 0x03
  | .process => 0x04
  | .oscInit _ _ => 0x10
  | .oscSetFreq _ _ => 0x11
  | .oscSetType _ _ => 0x12
  | .oscSetDebug _ _ => 0x13
  | .oscNext _ _ => 0x14
  | .rbConfigure => 0x20
  | .rbInit => 0x21
  | .rbWrite => 0x22
  | .rbRead _ => 0x23
  | .cvtS2n => 0x30
  | .cvtT2f => 0x31

theorem select_eq_none_iff {w : Word} : select w = none ↔ opField w ∉ assignedOps := by
  unfold select
  split <;> simp_all [assignedOps]

/-- The row of the opcode table a word selects: its OP is the command's, and the command's indices are the fields its row uses. -/
theorem select_row {w : Word} {i : Instr} (h : select w = some i) :
    opField w = i.opcode ∧ i.voice? = (if opField w ∈ voiceOps then some (vField w).val else none) ∧
      i.channel? = if opField w ∈ channelOps then some (chField w).val else none := by
  unfold select at h
  split at h
  all_goals
    rename_i hop
    cases h <;> simp [hop, Instr.opcode, Instr.voice?, Instr.channel?, voiceOps, channelOps]

/-! ## Decoding -/

/-- RSV and the fields that the opcode's row does not use are 0 (R93). -/
def fieldsClear (w : Word) : Prop :=
  rsvField w = 0 ∧ (opField w ∉ voiceOps → (vField w).val = 0) ∧ (opField w ∉ channelOps → (chField w).val = 0)

/-- Check (2) of R251 asks that of the fields of a word that has a row. -/
theorem unusedClear_iff_fieldsClear {w : Word} {i : Instr} (h : select w = some i) :
    unusedClear i w = true ↔ fieldsClear w := by
  obtain ⟨-, hv, hch⟩ := select_row h
  rw [unusedClear, hv, hch]
  split_ifs with hV hC hC <;> simp [fieldsClear, hV, hC, and_assoc]

/-- With its unused fields 0, a word's V and CH are its command's indices, 0 where it uses none. -/
theorem fieldsClear_iff {w : Word} {i : Instr} (h : select w = some i) :
    fieldsClear w ↔ rsvField w = 0 ∧ (vField w).val = i.voice?.getD 0 ∧ (chField w).val = i.channel?.getD 0 := by
  obtain ⟨-, hv, hch⟩ := select_row h
  rw [hv, hch]
  split_ifs with hV hC hC <;> simp [fieldsClear, hV, hC]

theorem decode_of_select {w : Word} {i : Instr} (h : select w = some i) :
    decode w = if unusedClear i w then .ok i else .error .reservedField := by
  rw [decode, h]

theorem decode_eq_ok_iff {w : Word} {i : Instr} : decode w = .ok i ↔ select w = some i ∧ fieldsClear w := by
  constructor
  · intro hd
    cases h : select w with
    | none => simp [decode, h] at hd
    | some j =>
      rw [decode_of_select h] at hd
      split_ifs at hd with hu
      cases hd
      exact ⟨rfl, (unusedClear_iff_fieldsClear h).1 hu⟩
  · rintro ⟨h, hc⟩
    rw [decode_of_select h, if_pos ((unusedClear_iff_fieldsClear h).2 hc)]

/-- The encoding of a command has the command's fields, so it passes both checks. -/
theorem decode_encode (i : Instr) : decode (encode i) = .ok i := by
  obtain ⟨hr, hv, hch, hs⟩ := encodedFields i
  exact decode_eq_ok_iff.2 ⟨hs, (fieldsClear_iff hs).2 ⟨hr, hv, hch⟩⟩

/-- A word that decodes to a command has the fields of the command's encoding. -/
theorem encode_of_decode {w : Word} {i : Instr} (h : decode w = .ok i) : encode i = w := by
  obtain ⟨hs, hc⟩ := decode_eq_ok_iff.1 h
  obtain ⟨hr, hv, hch⟩ := (fieldsClear_iff hs).1 hc
  obtain ⟨hr', hv', hch', hs'⟩ := encodedFields i
  have hop : opField (encode i) = opField w := (select_row hs').1.trans (select_row hs).1.symm
  exact word_eq_of_fields hop (Fin.ext (hv'.trans hv.symm)) (Fin.ext (hch'.trans hch.symm)) (hr'.trans hr.symm)

/-- Settles O3: a command's encoding has the fields decoding asks for, and a word is its fields. -/
theorem decodeEncodeInverse : Obligations.DecodeEncodeInverse := ⟨decode_encode, fun _ _ => encode_of_decode⟩

/-- Settles O4: each word is the encoding of its command. -/
theorem sampleWordsDecode : Obligations.SampleWordsDecode :=
  ⟨decode_encode .nop, decode_encode .prepare, decode_encode (.setTranspo 2), decode_encode .setWindow, decode_encode .process,
    decode_encode (.oscInit 1 1), decode_encode (.oscSetFreq 0 1), decode_encode (.oscSetType 1 0), decode_encode (.oscSetDebug 1 15),
    decode_encode (.oscNext 2 1), decode_encode .rbConfigure, decode_encode .rbInit, decode_encode .rbWrite,
    decode_encode (.rbRead 1), decode_encode .cvtS2n, decode_encode .cvtT2f⟩

end Sys2Proof
end

section
/-! PROOF. Illegal words: at the executor's turn the first check of R251 that a word fails decides its error. -/

namespace Sys2Proof.Machine

/-! ## The three checks -/

theorem decode_illegalOpcode {w : Word} (h : opField w ∉ assignedOps) : decode w = .error .illegalOpcode := by
  rw [decode, select_eq_none_iff.2 h]

theorem exists_select {w : Word} (h : opField w ∈ assignedOps) : ∃ i, select w = some i :=
  Option.ne_none_iff_exists'.1 fun hn => select_eq_none_iff.1 hn h

theorem decode_reservedField {w : Word} (h : opField w ∈ assignedOps) (hc : ¬ fieldsClear w) :
    decode w = .error .reservedField := by
  obtain ⟨i, hi⟩ := exists_select h
  rw [decode_of_select hi, if_neg (mt (unusedClear_iff_fieldsClear hi).1 hc)]

theorem not_wellFormed_of_select {p : Params} {w : Word} {i : Instr} (h : select w = some i)
    (hbad : opField w ∈ voiceOps ∧ p.nvoice ≤ (vField w).val ∨ opField w ∈ channelOps ∧ p.nch ≤ (chField w).val) :
    ¬ i.wellFormed p = true := by
  obtain ⟨-, hv, hch⟩ := select_row h
  rw [Instr.wellFormed, Instr.voiceLegal, Instr.channelLegal, hv, hch]
  rcases hbad with ⟨hop, hle⟩ | ⟨hop, hle⟩ <;> rw [if_pos hop] <;> simp [hle]

/-- A command whose indices the instance lacks only aborts, by error 3 (R96, R251). -/
theorem exec_of_not_wellFormed {i : Instr} {s : State} (h : ¬ i.wellFormed s.params = true) :
    exec i s = raise i .indexRange s := by
  cases i with
  | setTranspo v => exact if_neg h
  | oscInit v ch => exact if_neg h
  | oscSetFreq v ch => exact if_neg h
  | oscSetType v ch => exact if_neg h
  | oscSetDebug v ch => exact if_neg h
  | oscNext v ch => exact if_neg h
  | rbRead ch => exact if_neg h
  | _ => exact absurd rfl h

/-! ## The aborts -/

/-- Aborting with the fields of a word, written out (R25, R253). -/
theorem abort_sourceOf (c : ErrCode) {bit : Nat} (hbit : errBit c = bitMask bit) (w : Word) (s : State) :
    s.abort c (sourceOf w) =
      s.afterError (errNumber c) bit (w.toNat % 256) (w.toNat / 256 % 16) (w.toNat / 4096 % 16) := by
  rw [State.abort_eq, hbit]
  rfl

theorem executorMove_of_inflight {s : State} {e : Entry} (hr : s.rst = false) (he : s.inflight = some e) :
    executorMove s = completeEntry e s := by
  simp [executorMove, hr, he]

/-- Settles O5: a word that fails check (1) or (2) does not decode, and one that fails check (3) decodes to the command whose encoding it
is, which is not well formed. -/
theorem illegalWordsAbort : Obligations.IllegalWordsAbort := by
  intro s e rest hr hturn he next op v ch rsv assigned usesV usesCh clear
  have hstep : step s = completeEntry e next := by
    rw [step_of_executorTurn hturn, executorMove_of_inflight (s := next) hr he]
  rw [hstep, completeEntry]
  refine ⟨fun hop => ?_, fun hop hc => ?_, fun hop hc hbad => ?_⟩
  · rw [decode_illegalOpcode hop]
    exact congrArg _ (abort_sourceOf .illegalOpcode rfl e.word next)
  · rw [decode_reservedField hop hc]
    exact congrArg _ (abort_sourceOf .reservedField rfl e.word next)
  · obtain ⟨i, hi⟩ := exists_select hop
    have hd : decode e.word = .ok i := decode_eq_ok_iff.2 ⟨hi, hc⟩
    rw [hd]
    have hexec : exec i next = raise i .indexRange next := exec_of_not_wellFormed (not_wellFormed_of_select hi hbad)
    rw [raise, encode_of_decode hd] at hexec
    exact hexec.trans (congrArg _ (abort_sourceOf .indexRange rfl e.word next))

end Sys2Proof.Machine
end

section
/-! PROOF. The issue of a command by a host write: CMD, and the single-write forms QTRANSPO and QWINDOW (R92, R97). -/

namespace Sys2Proof.Machine

theorem errWord_queueOverflow (src : ErrSource) :
    errWord .queueOverflow src = w32 (6 + 256 * src.op + 65536 * src.v + 1048576 * src.ch) := rfl

/-- What a write that issues a command leaves: the entry at the tail of the FIFO, or error 6 with the word's fields (R92). -/
theorem respond_enqueue (s : State) (e : Entry) :
    State.respond 0#32 false (s.enqueue e) =
      if s.fifo.length < s.params.qdepth then { s with fifo := s.fifo ++ [e], resp := some { data := 0#32, err := false } }
      else { s with
        sticky := s.sticky ||| 0x00000800#32
        errinfo := if s.errinfo.toNat % 256 = 0 then errWord .queueOverflow (sourceOf e.word) else s.errinfo
        resp := some { data := 0#32, err := false } } := by
  rcases State.enqueue_cases e s with ⟨h, he⟩ | ⟨h, he⟩
  · rw [if_pos h, he]; rfl
  · rw [if_neg h, he]; rfl

/-- Settles O46: the entry is the written word with ARG0 and ARG1. -/
theorem cmdWriteEnqueues : Obligations.CmdWriteEnqueues := by
  intro s w rest hr hin
  have hstep : step s = .next (State.respond 0#32 false
      (State.enqueue { word := w, a0 := s.arg0, a1 := s.arg1 } { s with inputs := rest })) :=
    step_write hr (by decide) (by decide) hin
  rw [hstep, respond_enqueue]
  refine ⟨fun h => ?_, fun h => ?_⟩
  · exact congrArg _ (if_pos h)
  · exact congrArg _ (if_neg (Nat.not_lt.2 h))

/-- The fields of a single-write form's command word: OP, and V where the form has a slot number. -/
theorem sourceOf_fieldsWord {op v : Nat} (hop : op < 256) (hv : v < 16) :
    sourceOf (fieldsWord op v 0) = { op := op, v := v, ch := 0 } := by
  obtain ⟨h1, h2, h3, -⟩ := Laws.EncodedFields.fieldsWord_fields op ⟨v, hv⟩ 0 hop
  simp only [Fin.val_zero] at h1 h2 h3
  simp [sourceOf, h1, h2, h3]

theorem targetOf_qtranspo {v : Nat} (hv : v < 4) : targetOf (0x0A0 + 4 * v) = .qtranspo v :=
  (by decide : ∀ v < 4, targetOf (0x0A0 + 4 * v) = .qtranspo v) v hv

/-- Settles O47: the write to a slot the instance has is the enqueue of the command's word with the written word as its operand. -/
theorem singleWriteFormsEnqueue : Obligations.SingleWriteFormsEnqueue := by
  intro s w rest hr enq
  have henq : ∀ op v, op < 256 → v < 16 → State.respond 0#32 false
      (State.enqueue { word := fieldsWord op v 0, a0 := w, a1 := 0#32 } { s with inputs := rest }) = enq (op + 256 * v) op v :=
    fun op v hop hv => by
      rw [respond_enqueue, sourceOf_fieldsWord hop hv, errWord_queueOverflow]
      rfl
  refine ⟨fun v hv hin => ?_, fun hin => ?_⟩
  · rw [step_write hr (by omega) (by simp only [Config.apertureSize]; omega) hin, targetOf_qtranspo hv, State.writeEffect]
    split_ifs with h
    · exact congrArg _ (henq 2 v (by omega) (by omega))
    · rfl
  · exact (step_write hr (by decide) (by decide) hin).trans (congrArg _ (henq 3 0 (by omega) (by omega)))

end Sys2Proof.Machine
end

section
/-! PROOF. Rounding is to the nearest, ties to even (R120): a quotient lies between two adjacent magnitudes, and rounding takes the
nearer. -/

namespace Sys2Proof.Machine

/-! ## Magnitudes as significand and exponent -/

/-- A significand of at most 24 bits, and of exactly 24 where the exponent is not the least, is a magnitude. -/
theorem magUnits_of_significand {k c : Nat} (hk : k = 0 ∨ 2 ^ 23 ≤ c) (hc : c < 2 ^ 24) :
    magUnits (k * 2 ^ 23 + c) = c * 2 ^ k := by
  rcases Nat.lt_or_ge c (2 ^ 23) with h | h
  · obtain rfl : k = 0 := by omega
    rw [magUnits_subnormal (by omega)]
    omega
  · have hexp : (k * 2 ^ 23 + c) / 2 ^ 23 - 1 = k := by omega
    have hfrac : 2 ^ 23 + (k * 2 ^ 23 + c) % 2 ^ 23 = c := by omega
    rw [magUnits_normal (by omega), hexp, hfrac]

/-- The next magnitude has the next significand. -/
theorem magUnits_of_significand_succ {k c : Nat} (hk : k = 0 ∨ 2 ^ 23 ≤ c) (hc : c < 2 ^ 24) :
    magUnits (k * 2 ^ 23 + c + 1) = (c + 1) * 2 ^ k := by
  have hexp : (k * 2 ^ 23 + c) / 2 ^ 23 - 1 = k := by omega
  rw [magUnits_succ, magUnits_of_significand hk hc, hexp]
  ring

/-! ## The two neighbours of a quotient -/

/-- `nearestEven` rounds down below the middle, up above it, and to the even neighbour at it. -/
theorem nearestEven_cases (n : Nat) {d : Nat} (hd : 0 < d) :
    n / d * d ≤ n ∧ n < (n / d + 1) * d ∧
      ((2 * n < (2 * (n / d) + 1) * d ∨ 2 * n = (2 * (n / d) + 1) * d ∧ n / d % 2 = 0) ∧ nearestEven n d = n / d ∨
        ((2 * (n / d) + 1) * d < 2 * n ∨ 2 * n = (2 * (n / d) + 1) * d ∧ n / d % 2 = 1) ∧ nearestEven n d = n / d + 1) := by
  have hsplit : n / d * d + n % d = n := by rw [mul_comm]; exact Nat.div_add_mod n d
  have hlt := Nat.mod_lt n hd
  have hmid : (2 * (n / d) + 1) * d = 2 * (n / d * d) + d := by ring
  have hsucc : (n / d + 1) * d = n / d * d + d := by ring
  simp only [nearestEven, Bool.or_eq_true, Bool.and_eq_true, decide_eq_true_eq, beq_iff_eq]
  split_ifs <;> omega

/-- The quotient n/d is on or above the magnitude `a` and below the next one. -/
def between (n d a : Nat) : Prop := magUnits a * d ≤ n ∧ n < magUnits (a + 1) * d

/-- The quotient n/d between `a` and `a + 1` rounds to `a`: it is nearer to it, or halfway and `a` is even. -/
def roundsDown (n d a : Nat) : Prop :=
  2 * n < (magUnits a + magUnits (a + 1)) * d ∨ 2 * n = (magUnits a + magUnits (a + 1)) * d ∧ a % 2 = 0

/-- The quotient n/d between `a` and `a + 1` rounds to `a + 1`: it is nearer to it, or halfway and `a` is odd. -/
def roundsUp (n d a : Nat) : Prop :=
  (magUnits a + magUnits (a + 1)) * d < 2 * n ∨ 2 * n = (magUnits a + magUnits (a + 1)) * d ∧ a % 2 = 1

/-- Rounding takes one of two adjacent magnitudes, bounded by ∞. -/
theorem rneMag_neighbours (n : Nat) {d : Nat} (hd : 0 < d) :
    ∃ a, between n d a ∧ (roundsDown n d a ∧ rneMag n d = min a 0x7F800000 ∨
      roundsUp n d a ∧ rneMag n d = min (a + 1) 0x7F800000) := by
  obtain ⟨hc, hc'⟩ := significand_bounds n d
  rw [rneMag]
  generalize (n / d).log2 + 1 - 24 = k at *
  have hk : k = 0 ∨ 2 ^ 23 ≤ n / (d * 2 ^ k) := k.eq_zero_or_pos.imp_right hc'
  obtain ⟨hlo, hhi, hround⟩ := nearestEven_cases n (Nat.mul_pos hd (Nat.two_pow_pos k))
  generalize n / (d * 2 ^ k) = c at *
  have hmid : (2 * c + 1) * (d * 2 ^ k) = (c * 2 ^ k + (c + 1) * 2 ^ k) * d := by ring
  rw [mul_comm d, ← mul_assoc] at hlo hhi
  rw [hmid] at hround
  rw [← magUnits_of_significand hk hc, ← magUnits_of_significand_succ hk hc] at *
  have hparity : (k * 2 ^ 23 + c) % 2 = c % 2 := by omega
  refine ⟨k * 2 ^ 23 + c, ⟨hlo, hhi⟩, ?_⟩
  rw [← hparity] at hround
  rcases hround with ⟨hdown, he⟩ | ⟨hup, he⟩
  · exact .inl ⟨hdown, by rw [he]⟩
  · exact .inr ⟨hup, by rw [he, add_assoc]⟩

/-! ## Nearest (R120) -/

/-- A finite result is nearer to the quotient than every other magnitude, or as near and even. -/
theorem rneMag_nearest {n d : Nat} (hd : 0 < d) (hfin : rneMag n d < 0x7F800000) {m : Nat} (hm : m ≠ rneMag n d) :
    |(magUnits (rneMag n d) * d : Int) - n| < |(magUnits m * d : Int) - n| ∨
      (|(magUnits (rneMag n d) * d : Int) - n| = |(magUnits m * d : Int) - n| ∧ rneMag n d % 2 = 0) := by
  obtain ⟨a, ⟨hlo, hhi⟩, hround⟩ := rneMag_neighbours n hd
  have hscale : StrictMono fun i => magUnits i * d := fun _ _ h => Nat.mul_lt_mul_of_pos_right (magUnits_strictMono h) hd
  simp only [abs_eq_max_neg, ← Nat.cast_mul]
  rcases hround with ⟨hdown, he⟩ | ⟨hup, he⟩
  · obtain rfl : a = rneMag n d := by omega
    rw [roundsDown, add_mul] at hdown
    rcases Nat.lt_or_gt_of_ne hm with h | h
    · have : magUnits m * d < magUnits (rneMag n d) * d := hscale h
      omega
    · have : magUnits (rneMag n d + 1) * d ≤ magUnits m * d := hscale.monotone h
      omega
  · replace he : rneMag n d = a + 1 := by omega
    rw [he] at hm ⊢
    rw [roundsUp, add_mul] at hup
    rcases Nat.lt_or_gt_of_ne hm with h | h
    · have : magUnits m * d ≤ magUnits a * d := hscale.monotone (Nat.lt_succ_iff.1 h)
      omega
    · have : magUnits (a + 1) * d < magUnits m * d := hscale h
      omega

/-! ## Overflow (R120) -/

/-- Rounding gives ∞ exactly from halfway between the largest finite value and 2^128 on; the largest finite value is odd. -/
theorem rneMag_eq_inf_iff (n : Nat) {d : Nat} (hd : 0 < d) :
    rneMag n d = 0x7F800000 ↔ (2 ^ 25 - 1) * 2 ^ 252 * d ≤ n := by
  have hmiddle : 2 * ((2 ^ 25 - 1) * 2 ^ 252 * d) = (magUnits 0x7F7FFFFF + magUnits (0x7F7FFFFF + 1)) * d := by
    rw [show magUnits 0x7F7FFFFF + magUnits (0x7F7FFFFF + 1) = 2 * ((2 ^ 25 - 1) * 2 ^ 252) by decide +kernel]
    ring
  have hmono : Monotone fun i => magUnits i * d := fun _ _ h => Nat.mul_le_mul_right d (magUnits_strictMono.monotone h)
  have hlast : magUnits 0x7F7FFFFF * d ≤ magUnits (0x7F7FFFFF + 1) * d := hmono (Nat.le_succ _)
  obtain ⟨a, ⟨hlo, hhi⟩, hround⟩ := rneMag_neighbours n hd
  rw [add_mul] at hmiddle
  generalize (2 ^ 25 - 1) * 2 ^ 252 * d = threshold at *
  rcases Nat.lt_trichotomy a 0x7F7FFFFF with h | rfl | h
  · have : magUnits (a + 1) * d ≤ magUnits 0x7F7FFFFF * d := hmono h
    omega
  · rw [roundsDown, roundsUp, add_mul] at hround
    omega
  · have : magUnits (0x7F7FFFFF + 1) * d ≤ magUnits a * d := hmono h
    omega

/-- Settles O11: of the quotient's two neighbouring magnitudes rounding takes the nearer, and ∞ from the last middle on. -/
theorem roundingIsNearestEven : Obligations.RoundingIsNearestEven :=
  fun n d hd => ⟨rneMag_eq_inf_iff n hd, rneMag_le n d, fun hfin _ _ hm => rneMag_nearest hd hfin hm⟩

end Sys2Proof.Machine
end

section
/-! PROOF. The fractional part (R123) and the split of a number (R127): the units of a value that are below 1 are again a value, so
nothing is rounded where they are taken from a value that is not negative. -/

namespace Sys2Proof.Machine

/-! ## Remainders of magnitudes are magnitudes -/

/-- A significand of at most 24 bits times a power of two is a magnitude. -/
theorem exists_magUnits_eq_mul_pow (e : Nat) : ∀ c < 2 ^ 24, ∃ m, magUnits m = c * 2 ^ e := by
  induction e with
  | zero => exact fun c hc => ⟨0 * 2 ^ 23 + c, magUnits_of_significand (.inl rfl) hc⟩
  | succ e ih =>
    intro c hc
    rcases Nat.lt_or_ge c (2 ^ 23) with h | h
    · obtain ⟨m, hm⟩ := ih (2 * c) (by omega)
      exact ⟨m, by rw [hm, pow_succ]; ring⟩
    · exact ⟨_, magUnits_of_significand (.inr h) hc⟩

/-- Every magnitude is a significand of at most 24 bits times a power of two. -/
theorem magUnits_eq_significand (m : Nat) : ∃ c e, c < 2 ^ 24 ∧ magUnits m = c * 2 ^ e := by
  rcases Nat.lt_or_ge m (2 ^ 23) with h | h
  · exact ⟨m, 0, by omega, by rw [magUnits_subnormal h, pow_zero, mul_one]⟩
  · exact ⟨_, _, by omega, magUnits_normal h⟩

theorem magUnits_one : magUnits 0x3F800000 = 2 ^ 149 := by decide +kernel

/-- What a magnitude leaves over whole numbers is a magnitude below 1. -/
theorem exists_magUnits_eq_mod (m : Nat) : ∃ r < 0x3F800000, magUnits r = magUnits m % 2 ^ 149 := by
  obtain ⟨c, e, hc, hm⟩ := magUnits_eq_significand m
  have hrem : ∃ c' < 2 ^ 24, magUnits m % 2 ^ 149 = c' * 2 ^ e := by
    rcases Nat.lt_or_ge e 149 with h | h
    · refine ⟨c % 2 ^ (149 - e), (Nat.mod_le _ _).trans_lt hc, ?_⟩
      rw [hm, ← Nat.mul_mod_mul_right, ← pow_add, Nat.sub_add_cancel h.le]
    · refine ⟨0, by norm_num, ?_⟩
      rw [hm, Nat.zero_mul]
      exact Nat.mod_eq_zero_of_dvd (dvd_mul_of_dvd_right (pow_dvd_pow 2 h) c)
  obtain ⟨c', hc', hrem⟩ := hrem
  obtain ⟨r, hr⟩ := exists_magUnits_eq_mul_pow e c' hc'
  refine ⟨r, magUnits_strictMono.lt_iff_lt.1 ?_, hr.trans hrem.symm⟩
  rw [hr, ← hrem, magUnits_one]
  exact Nat.mod_lt _ (Nat.two_pow_pos 149)

/-- Rounding leaves such a remainder as it is. -/
theorem magUnits_rneMag_mod (m : Nat) :
    magUnits (rneMag (magUnits m % 2 ^ 149) 1) = magUnits m % 2 ^ 149 ∧ rneMag (magUnits m % 2 ^ 149) 1 < 0x3F800000 := by
  obtain ⟨r, hr, hrm⟩ := exists_magUnits_eq_mod m
  rw [← hrm, rneMag_magUnits (by omega)]
  exact ⟨rfl, hr⟩

/-! ## mod1 (R123) -/

theorem fpack_false (m : Nat) : fpack false m = w32 m := rfl

theorem units_w32 {m : Nat} (h : m < 2 ^ 31) : units (w32 m) = magUnits m := by
  rw [← fpack_false, units_fpack false h]; rfl

theorem units_of_nonneg {x : Word} (h : 0 ≤ units x) : units x = magUnits (fmag x) := by
  have := natAbs_units x
  omega

/-- The magnitude to which mod1 rounds the fractional part. -/
def fracMag (x : Word) : Nat := rneMag (units x % 2 ^ 149).toNat 1

theorem frac_bounds (x : Word) : 0 ≤ units x % 2 ^ 149 ∧ units x % 2 ^ 149 < 2 ^ 149 :=
  ⟨Int.emod_nonneg _ (by norm_num), Int.emod_lt_of_pos _ (by norm_num)⟩

theorem fracMag_le (x : Word) : fracMag x ≤ 0x3F800000 := by
  have := frac_bounds x
  exact rneMag_le_of_le_mul Nat.one_pos (by norm_num) (by rw [magUnits_one]; omega)

theorem w32_eq_one_iff {m : Nat} (h : m ≤ 0x3F800000) : w32 m = f32One ↔ m = 0x3F800000 := by
  refine ⟨fun e => ?_, fun e => ?_⟩
  · have := congrArg BitVec.toNat e
    simp only [BitVec.toNat_ofNat, f32One] at this
    omega
  · subst e; decide

theorem rne32_frac (x : Word) : rne32 false (units x % 2 ^ 149).toNat 1 = w32 (fracMag x) := by
  rw [rne32, fpack_false, fracMag]

/-- mod1 is the rounded fractional part, with 1.0 taken to +0.0. -/
theorem mod1_eq {x : Word} (h : isFinite x = true) : mod1 x = if fracMag x = 0x3F800000 then 0#32 else w32 (fracMag x) := by
  simp only [mod1, h, if_true, rne32_frac, w32_eq_one_iff (fracMag_le x)]

/-- The fractional part is rounded to the nearest, ties to even. -/
theorem fracMag_nearest (x : Word) {m : Nat} (hm : m ≠ fracMag x) :
    |(magUnits (fracMag x) : Int) - units x % 2 ^ 149| < |(magUnits m : Int) - units x % 2 ^ 149| ∨
      (|(magUnits (fracMag x) : Int) - units x % 2 ^ 149| = |(magUnits m : Int) - units x % 2 ^ 149| ∧ fracMag x % 2 = 0) := by
  have hle := fracMag_le x
  have := rneMag_nearest Nat.one_pos (lt_of_le_of_lt hle (by norm_num)) hm
  rwa [Nat.cast_one, mul_one, mul_one, Int.toNat_of_nonneg (frac_bounds x).1] at this

/-- From 0 up the fractional part is a value, so mod1 is exact. -/
theorem units_mod1 {x : Word} (hfin : isFinite x = true) (h : 0 ≤ units x) : units (mod1 x) = units x % 2 ^ 149 := by
  have hfrac : (units x % 2 ^ 149).toNat = magUnits (fmag x) % 2 ^ 149 := by rw [units_of_nonneg h]; omega
  obtain ⟨hexact, hlt⟩ := magUnits_rneMag_mod (fmag x)
  rw [← hfrac, ← fracMag] at hexact hlt
  rw [mod1_eq hfin, if_neg hlt.ne, units_w32 (by omega), hexact]
  exact Int.toNat_of_nonneg (frac_bounds x).1

/-! ## split (R127) -/

/-- The fraction of a split is a phase, and exact. -/
theorem splitFrac_exact (d : Word) : units (splitFrac d) = (magUnits (fmag d) % 2 ^ 149 : Nat) ∧ unitPhase (splitFrac d) := by
  obtain ⟨hexact, hlt⟩ := magUnits_rneMag_mod (fmag d)
  rw [splitFrac, rne32, fpack_false]
  generalize rneMag (magUnits (fmag d) % 2 ^ 149) 1 = r at *
  refine ⟨(units_w32 (by omega)).trans (congrArg _ hexact), ?_⟩
  rw [unitPhase, BitVec.toNat_ofNat]
  omega

/-- Settles O12: mod1 rounds the units below 1 to the nearest value, which from 0 up they are; `split` takes the same units. -/
theorem modOneAndSplitAreExact : Obligations.ModOneAndSplitAreExact := by
  refine ⟨fun x => ⟨fun h => ⟨mod1_unitPhase h, ?_, units_mod1 h⟩, fun h => ?_⟩, fun d _ hd => ?_⟩
  · exact ⟨fracMag x, fracMag_le x, mod1_eq h, fun m _ hm => fracMag_nearest x hm⟩
  · rw [mod1, h]; rfl
  · obtain ⟨hexact, hphase⟩ := splitFrac_exact d
    refine ⟨?_, hphase⟩
    rw [hexact, units_of_nonneg hd, splitInt]
    exact_mod_cast (Nat.div_add_mod' _ _).symm

end Sys2Proof.Machine
end

section
/-! PROOF. Exp2 keeps the order of the numbers and its bounds (R126): its key at a finite value is a key that does not decrease, moved into
a range whose two ends do not decrease, and which at -1, 0 and 1 is the one key X1 or X2 gives. -/

namespace Sys2Proof.Machine

/-! ## Order keys -/

/-- The units of the value at a place of the order. -/
def keyUnits (k : Nat) : Int := if k < 2 ^ 31 then -(magUnits (2 ^ 31 - k) : Int) else magUnits (k - 2 ^ 31)

theorem keyUnits_strictMono : StrictMono keyUnits := by
  intro k k' h
  have hzero : magUnits 0 = 0 := rfl
  unfold keyUnits
  split_ifs with h1 h2
  · have := magUnits_strictMono (show 2 ^ 31 - k' < 2 ^ 31 - k by omega)
    omega
  · have := magUnits_strictMono (show 0 < 2 ^ 31 - k by omega)
    omega
  · omega
  · have := magUnits_strictMono (show k - 2 ^ 31 < k' - 2 ^ 31 by omega)
    omega

theorem units_eq_keyUnits (w : Word) : units w = keyUnits (orderKey w) := by
  have := fmag_lt w
  unfold units keyUnits orderKey
  split_ifs with hs h h
  · rw [Nat.sub_sub_self this.le]
  · rw [show fmag w = 0 by omega]; rfl
  · omega
  · rw [Nat.add_sub_cancel_left]

/-- Values have the order of their keys. -/
theorem units_le_iff (q r : Word) : units q ≤ units r ↔ orderKey q ≤ orderKey r := by
  rw [units_eq_keyUnits, units_eq_keyUnits, keyUnits_strictMono.le_iff_le]

theorem orderKey_ofOrderKey (b : Bool) {k : Nat} (h1 : 0 < k) (h2 : k < 2 ^ 32) : orderKey (ofOrderKey b k) = k := by
  unfold ofOrderKey
  split_ifs with h h'
  · rw [orderKey, fsign_fpack _ (by omega), fmag_fpack _ (by omega), if_pos rfl]; omega
  · rw [orderKey, fsign_fpack _ (by omega), fmag_fpack _ (by omega)]; simp [h']
  · rw [orderKey, fsign_fpack _ (by omega), fmag_fpack _ (by omega), if_neg (by simp)]; omega

/-- A key between those of the infinities is that of a number. -/
theorem isNaN_eq_false_of_orderKey {w : Word} (hlo : orderKey 0xFF800000#32 ≤ orderKey w) (hhi : orderKey w ≤ orderKey f32Inf) :
    isNaN w = false := by
  rw [show orderKey 0xFF800000#32 = 2 ^ 31 - 0x7F800000 by decide] at hlo
  rw [show orderKey f32Inf = 2 ^ 31 + 0x7F800000 by decide] at hhi
  have := fmag_lt w
  unfold orderKey at hlo hhi
  refine decide_eq_false ?_
  split_ifs at hlo hhi <;> omega

/-! ## The reference function's series -/

theorem expSeries_mono (n j : Nat) {y y' : Nat} (h : y ≤ y') : expSeries n j y ≤ expSeries n j y' := by
  induction n generalizing j with
  | zero => exact le_rfl
  | succ n ih =>
    exact Nat.add_le_add_left (Nat.div_le_div_right (Nat.div_le_div_right (Nat.mul_le_mul h (ih (j + 1))))) _

theorem one_le_expSeries (n j y : Nat) : fxOne ≤ expSeries n j y := by
  cases n with
  | zero => exact le_rfl
  | succ n => exact Nat.le_add_right _ _

/-- At ln 2, rounded down, the series has not passed 2. -/
theorem expSeries_ln2_le : expSeries 50 1 fxLn2 ≤ 2 * fxOne := by decide +kernel

/-- The argument of the series for u units: their fractional part times ln 2. -/
def seriesArg (u : Int) : Nat := (u % 2 ^ 149).toNat * fxLn2 / 2 ^ 149

/-- 2^u in fixed point with 51 more fraction bits, for u units of at least -200 · 2^149. -/
def expNumerator (u : Int) : Nat := expSeries 50 1 (seriesArg u) * 2 ^ (u / 2 ^ 149 + 200).toNat

theorem seriesArg_le (u : Int) : seriesArg u ≤ fxLn2 := by
  have : (u % 2 ^ 149).toNat ≤ 2 ^ 149 := by omega
  calc seriesArg u ≤ 2 ^ 149 * fxLn2 / 2 ^ 149 := Nat.div_le_div_right (Nat.mul_le_mul_right _ this)
    _ = fxLn2 := Nat.mul_div_cancel_left _ (Nat.two_pow_pos 149)

/-- Within one whole number the series grows; from one to the next the power of two doubles, which the series never does. -/
theorem expNumerator_mono {u u' : Int} (hlo : -200 ≤ u / 2 ^ 149) (h : u ≤ u') : expNumerator u ≤ expNumerator u' := by
  unfold expNumerator
  rcases Int.lt_or_eq_of_le (Int.ediv_le_ediv (show (0 : Int) < 2 ^ 149 by norm_num) h) with hlt | heq
  · have hexp : 2 ^ ((u / 2 ^ 149 + 200).toNat + 1) ≤ 2 ^ (u' / 2 ^ 149 + 200).toNat :=
      Nat.pow_le_pow_right (by norm_num) (by omega)
    calc expSeries 50 1 (seriesArg u) * 2 ^ (u / 2 ^ 149 + 200).toNat
        ≤ 2 * fxOne * 2 ^ (u / 2 ^ 149 + 200).toNat :=
          Nat.mul_le_mul_right _ ((expSeries_mono 50 1 (seriesArg_le u)).trans expSeries_ln2_le)
      _ = fxOne * 2 ^ ((u / 2 ^ 149 + 200).toNat + 1) := by rw [pow_succ]; ring
      _ ≤ expSeries 50 1 (seriesArg u') * 2 ^ (u' / 2 ^ 149 + 200).toNat := Nat.mul_le_mul (one_le_expSeries 50 1 _) hexp
  · have harg : seriesArg u ≤ seriesArg u' := Nat.div_le_div_right (Nat.mul_le_mul_right _ (by omega))
    rw [heq]
    exact Nat.mul_le_mul_right _ (expSeries_mono 50 1 harg)

/-- The magnitude of the reference function at u units. -/
def expMag (u : Int) : Nat :=
  if 128 ≤ u / 2 ^ 149 then 0x7F800000 else if u / 2 ^ 149 < -200 then 0 else rneMag (expNumerator u) (fxOne * 2 ^ 51)

theorem exp2Reference_eq {q : Word} (h : isFinite q = true) : exp2Reference q = fpack false (expMag (units q)) := by
  simp only [exp2Reference, isNaN_eq_false_of_finite h, isInf_eq_false_of_finite h, Bool.false_eq_true, if_false, expMag]
  split_ifs <;> rfl

theorem expMag_le (u : Int) : expMag u ≤ 0x7F800000 := by
  unfold expMag
  split_ifs
  · exact le_rfl
  · exact Nat.zero_le _
  · exact rneMag_le _ _

theorem expMag_mono {u u' : Int} (h : u ≤ u') : expMag u ≤ expMag u' := by
  have hdiv := Int.ediv_le_ediv (show (0 : Int) < 2 ^ 149 by norm_num) h
  by_cases htop : 128 ≤ u' / 2 ^ 149
  · rw [show expMag u' = 0x7F800000 from if_pos htop]; exact expMag_le u
  by_cases hbot : u / 2 ^ 149 < -200
  · rw [show expMag u = 0 from (if_neg (by omega)).trans (if_pos hbot)]; exact Nat.zero_le _
  rw [expMag, expMag, if_neg (by omega), if_neg hbot, if_neg htop, if_neg (by omega)]
  exact rneMag_mono _ (expNumerator_mono (by omega) h)

/-! ## Exp2 as a map of order keys -/

/-- The key of the function that `f` chooses, before it is moved into the bounds. -/
def exp2RawKey (f : FnChoice) (q : Word) : Nat :=
  match f with
  | .reference => orderKey (exp2Reference q)
  | .other => Config.exp2Free (orderKey q)

theorem exp2RawKey_mono (f : FnChoice) {q r : Word} (hq : isFinite q = true) (hr : isFinite r = true)
    (h : units q ≤ units r) : exp2RawKey f q ≤ exp2RawKey f r := by
  cases f with
  | reference =>
    have hmag := expMag_mono h
    have hr' := expMag_le (units r)
    simp only [exp2RawKey, exp2Reference_eq hq, exp2Reference_eq hr]
    rw [← units_le_iff, fpack_false, fpack_false, units_w32 (by omega), units_w32 (by omega)]
    exact_mod_cast magUnits_strictMono.monotone hmag
  | other => exact Config.exp2Free.monotone ((units_le_iff q r).1 h)

/-- The least key of Exp2 at a key of its argument (X1 to X4). -/
def resultLow (k : Nat) : Nat :=
  if k < orderKey 0xBF800000#32 then orderKey 0xFF800000#32
  else if k < orderKey 0#32 then orderKey f32Half
  else if k < orderKey f32One then orderKey f32One
  else orderKey 0x40000000#32

/-- The greatest key of Exp2 at a key of its argument; at -1, 0 and 1 it is the least one too. -/
def resultHigh (k : Nat) : Nat :=
  if k ≤ orderKey 0xBF800000#32 then orderKey f32Half
  else if k ≤ orderKey 0#32 then orderKey f32One
  else if k ≤ orderKey f32One then orderKey 0x40000000#32
  else orderKey f32Inf

/-- The keys of -∞, -1, 0, 1/2, 1, 2 and ∞. -/
theorem orderKey_values :
    orderKey 0xFF800000#32 = 0x00800000 ∧ orderKey 0xBF800000#32 = 0x40800000 ∧ orderKey 0#32 = 0x80000000 ∧
      orderKey f32Half = 0xBF000000 ∧ orderKey f32One = 0xBF800000 ∧ orderKey 0x40000000#32 = 0xC0000000 ∧
      orderKey f32Inf = 0xFF800000 := by decide

theorem resultLow_mono : Monotone resultLow := by
  intro k k' h
  obtain ⟨hninf, hnone, hzero, hhalf, hone, htwo, -⟩ := orderKey_values
  simp only [resultLow, hninf, hnone, hzero, hhalf, hone, htwo]
  split_ifs <;> omega

theorem resultHigh_mono : Monotone resultHigh := by
  intro k k' h
  obtain ⟨-, hnone, hzero, hhalf, hone, htwo, hinf⟩ := orderKey_values
  simp only [resultHigh, hnone, hzero, hhalf, hone, htwo, hinf]
  split_ifs <;> omega

theorem resultRange_bounds (k : Nat) :
    orderKey 0xFF800000#32 ≤ resultLow k ∧ resultLow k ≤ resultHigh k ∧ resultHigh k ≤ orderKey f32Inf := by
  obtain ⟨hninf, hnone, hzero, hhalf, hone, htwo, hinf⟩ := orderKey_values
  simp only [resultLow, resultHigh, hninf, hnone, hzero, hhalf, hone, htwo, hinf]
  split_ifs <;> omega

/-- A number that is not a zero is the only one with its key. -/
theorem eq_of_orderKey_eq {q r : Word} (hr : fmag r ≠ 0) (h : orderKey q = orderKey r) : q = r := by
  have hq' := fmag_lt q
  have hr' := fmag_lt r
  have hfields : fsign q = fsign r ∧ fmag q = fmag r := by
    unfold orderKey at h
    split_ifs at h with hs hs' hs'
    · exact ⟨hs.trans hs'.symm, by omega⟩
    · omega
    · omega
    · exact ⟨(Bool.eq_false_of_not_eq_true hs).trans (Bool.eq_false_of_not_eq_true hs').symm, by omega⟩
  rw [← fpack_fields q, ← fpack_fields r, hfields.1, hfields.2]

theorem isZero_iff_orderKey {q : Word} : isZero q = true ↔ orderKey q = orderKey 0#32 := by
  have := fmag_lt q
  rw [isZero, beq_iff_eq, show orderKey 0#32 = 2 ^ 31 by decide, orderKey]
  split_ifs <;> omega

/-- Off -1, 0 and 1 the model's bounds are the range of the argument's region. -/
theorem exp2Bounds_eq {q : Word} (h0 : ¬ isZero q = true) (h1 : q ≠ f32One) (hn1 : q ≠ 0xBF800000#32) :
    exp2Bounds q = (resultLow (orderKey q), resultHigh (orderKey q)) := by
  have hk0 : orderKey q ≠ orderKey 0#32 := mt isZero_iff_orderKey.2 h0
  have hk1 : orderKey q ≠ orderKey f32One := fun h => h1 (eq_of_orderKey_eq (by decide) h)
  have hkn1 : orderKey q ≠ orderKey 0xBF800000#32 := fun h => hn1 (eq_of_orderKey_eq (by decide) h)
  simp only [exp2Bounds, resultLow, resultHigh, le_iff_lt_or_eq, hk0, hk1, hkn1, or_false]
  split_ifs <;> rfl

theorem boundNat_self (b n : Nat) : boundNat b b n = b := by unfold boundNat; omega

theorem boundNat_mem {lo hi : Nat} (h : lo ≤ hi) (n : Nat) : lo ≤ boundNat lo hi n ∧ boundNat lo hi n ≤ hi := by
  unfold boundNat; omega

theorem boundNat_mono {lo lo' hi hi' n n' : Nat} (hlo : lo ≤ lo') (hhi : hi ≤ hi') (hn : n ≤ n') :
    boundNat lo hi n ≤ boundNat lo' hi' n' := by unfold boundNat; omega

/-- A key moved into the range of an argument is a key of the order. -/
theorem orderKey_ofOrderKey_boundNat (b : Bool) (k n : Nat) :
    orderKey (ofOrderKey b (boundNat (resultLow k) (resultHigh k) n)) = boundNat (resultLow k) (resultHigh k) n := by
  obtain ⟨hlo, hle, hhi⟩ := resultRange_bounds k
  obtain ⟨hb, hb'⟩ := boundNat_mem hle n
  obtain ⟨hninf, -, -, -, -, -, hinf⟩ := orderKey_values
  exact orderKey_ofOrderKey b (by omega) (by omega)

/-- The key of Exp2 at a finite value: the key of the function chosen, moved into the range of the argument. -/
theorem orderKey_exp2 (f : FnChoice) {q : Word} (hq : isFinite q = true) :
    orderKey (exp2 f q) = boundNat (resultLow (orderKey q)) (resultHigh (orderKey q)) (exp2RawKey f q) := by
  unfold exp2
  rw [isNaN_eq_false_of_finite hq, isInf_eq_false_of_finite hq]
  simp only [Bool.false_eq_true, if_false]
  split_ifs with h0 h1 hn1
  · rw [isZero_iff_orderKey.1 h0, show resultLow (orderKey 0#32) = orderKey f32One by decide,
      show resultHigh (orderKey 0#32) = orderKey f32One by decide, boundNat_self]
  · rw [h1, show resultLow (orderKey f32One) = orderKey 0x40000000#32 by decide,
      show resultHigh (orderKey f32One) = orderKey 0x40000000#32 by decide, boundNat_self]
  · rw [hn1, show resultLow (orderKey 0xBF800000#32) = orderKey f32Half by decide,
      show resultHigh (orderKey 0xBF800000#32) = orderKey f32Half by decide, boundNat_self]
  · rw [exp2Bounds_eq h0 h1 hn1]
    cases f with
    | reference => exact orderKey_ofOrderKey_boundNat _ _ _
    | other => exact orderKey_ofOrderKey_boundNat _ _ _

/-- X3: Exp2 does not decrease, and is a number. -/
theorem exp2_mono (f : FnChoice) {q r : Word} (hq : isFinite q = true) (hr : isFinite r = true) (h : units q ≤ units r) :
    isNaN (exp2 f q) = false ∧ units (exp2 f q) ≤ units (exp2 f r) := by
  obtain ⟨hlo, hle, hhi⟩ := resultRange_bounds (orderKey q)
  have hkey := (units_le_iff q r).1 h
  obtain ⟨hb, hb'⟩ := boundNat_mem hle (exp2RawKey f q)
  constructor
  · refine isNaN_eq_false_of_orderKey ?_ ?_ <;> rw [orderKey_exp2 f hq] <;> omega
  · rw [units_le_iff, orderKey_exp2 f hq, orderKey_exp2 f hr]
    exact boundNat_mono (resultLow_mono hkey) (resultHigh_mono hkey) (exp2RawKey_mono f hq hr h)

/-- Settles O15: X1 and X2 are the model's cases, X3 is the order of the keys, and X4 is X3 at -1 and 1. -/
theorem exponentialProperties : Obligations.ExponentialProperties := by
  intro f
  have hone : exp2 f f32One = 0x40000000#32 := rfl
  have hnone : exp2 f 0xBF800000#32 = f32Half := rfl
  refine ⟨rfl, rfl, hone, hnone, fun q r hq hr h => exp2_mono f hq hr h, fun q hq hlo hhi => ⟨?_, ?_, ?_⟩⟩
  · have hmag : fmag q ≤ 0x3F800000 := by
      rw [show units 0xBF800000#32 = -(magUnits 0x3F800000 : Int) by decide +kernel] at hlo
      rw [show units 0x3F800000#32 = (magUnits 0x3F800000 : Int) by decide +kernel] at hhi
      have := natAbs_units q
      exact magUnits_strictMono.le_iff_le.1 (by omega)
    have := fmag_exp2_le f hmag
    exact isFinite_iff.2 (by omega)
  · have := (exp2_mono f (by decide) hq hlo).2
    rwa [hnone] at this
  · have := (exp2_mono f hq (by decide) hhi).2
    rwa [show exp2 f 0x3F800000#32 = 0x40000000#32 from hone] at this

end Sys2Proof.Machine
end

section
/-! PROOF. T2F does not decrease with the transposition (R131): multiplication and division by a positive value act on the magnitude
alone and keep its order, so with Exp2 between them they keep the order of the numbers. -/

namespace Sys2Proof.Machine

theorem isNaN_eq_false_iff {a : Word} : isNaN a = false ↔ fmag a ≤ 0x7F800000 := by
  rw [isNaN, decide_eq_false_iff_not, Nat.not_lt]

/-! ## Operations that act on the magnitude alone -/

/-- On the numbers `f` keeps the sign and changes the magnitude by `g`, which does not decrease, keeps 0 and stays within ∞. -/
structure ActsOnMagnitude (f : Word → Word) (g : Nat → Nat) : Prop where
  eq : ∀ a, isNaN a = false → f a = fpack (fsign a) (g (fmag a))
  mono : ∀ m n, m ≤ n → n ≤ 0x7F800000 → g m ≤ g n
  zero : g 0 = 0
  le : ∀ m, g m ≤ 0x7F800000

namespace ActsOnMagnitude

variable {f : Word → Word} {g : Nat → Nat}

theorem isNaN_eq_false (h : ActsOnMagnitude f g) {a : Word} (ha : isNaN a = false) : isNaN (f a) = false := by
  have := h.le (fmag a)
  rw [h.eq a ha, isNaN_eq_false_iff, fmag_fpack _ (by omega)]
  exact this

theorem magUnits_mono (h : ActsOnMagnitude f g) {a b : Word} (hb : isNaN b = false)
    (hab : magUnits (fmag a) ≤ magUnits (fmag b)) : magUnits (g (fmag a)) ≤ magUnits (g (fmag b)) :=
  magUnits_strictMono.monotone (h.mono _ _ (magUnits_strictMono.le_iff_le.1 hab) (isNaN_eq_false_iff.1 hb))

theorem magUnits_eq_zero (h : ActsOnMagnitude f g) {a : Word} (ha : magUnits (fmag a) = 0) : magUnits (g (fmag a)) = 0 := by
  have hmag : fmag a = 0 := magUnits_strictMono.injective (ha.trans (show 0 = magUnits 0 from rfl))
  rw [hmag, h.zero]; rfl

/-- Such an operation keeps the order of the numbers. -/
theorem units_mono (h : ActsOnMagnitude f g) {a b : Word} (ha : isNaN a = false) (hb : isNaN b = false)
    (hab : units a ≤ units b) : units (f a) ≤ units (f b) := by
  have hga := h.le (fmag a)
  have hgb := h.le (fmag b)
  rw [h.eq a ha, h.eq b hb, units_fpack _ (by omega), units_fpack _ (by omega)]
  unfold units at hab
  split_ifs at hab ⊢
  · have := h.magUnits_mono (a := b) ha (by omega)
    omega
  · omega
  · have ha0 := h.magUnits_eq_zero (a := a) (by omega)
    have hb0 := h.magUnits_eq_zero (a := b) (by omega)
    omega
  · have := h.magUnits_mono (a := a) hb (by omega)
    omega

/-- It takes a number that is not negative to one that is not. -/
theorem units_nonneg (h : ActsOnMagnitude f g) {a : Word} (ha : isNaN a = false) (ha0 : 0 ≤ units a) : 0 ≤ units (f a) := by
  have hzero : f 0#32 = 0#32 := by rw [h.eq 0#32 rfl, show fmag 0#32 = 0 from rfl, h.zero]; rfl
  have := h.units_mono (a := 0#32) rfl ha ha0
  rwa [hzero] at this

end ActsOnMagnitude

/-- Rounding a magnitude scaled by x/y, ∞ kept. -/
def scaleMag (x y m : Nat) : Nat := if m = 0x7F800000 then 0x7F800000 else rneMag (magUnits m * x) y

theorem scaleMag_mono (x y m n : Nat) (h : m ≤ n) (hn : n ≤ 0x7F800000) : scaleMag x y m ≤ scaleMag x y n := by
  unfold scaleMag
  split_ifs with h1 h2
  · exact le_rfl
  · omega
  · exact rneMag_le _ _
  · exact rneMag_mono y (Nat.mul_le_mul_right x (magUnits_strictMono.monotone h))

theorem scaleMag_zero (x y : Nat) : scaleMag x y 0 = 0 := by
  simp [scaleMag, magUnits, rneMag, nearestEven]

theorem scaleMag_le (x y m : Nat) : scaleMag x y m ≤ 0x7F800000 := by
  unfold scaleMag
  split_ifs
  · exact le_rfl
  · exact rneMag_le _ _

theorem isInf_iff {a : Word} : isInf a = true ↔ fmag a = 0x7F800000 := beq_iff_eq

theorem fsign_of_pos {c : Word} (h : 0 < units c) : fsign c = false := by
  unfold units at h
  split_ifs at h with hs
  · omega
  · exact Bool.eq_false_of_not_eq_true hs

theorem isZero_of_pos {c : Word} (h : 0 < units c) : isZero c = false := by
  refine beq_false_of_ne fun hz => ?_
  have hmag := natAbs_units c
  rw [hz, magUnits_subnormal (by norm_num)] at hmag
  omega

/-- Multiplication by a positive value scales the magnitude (R120). -/
theorem fmul_actsOnMagnitude {c : Word} (hfin : isFinite c = true) (hpos : 0 < units c) :
    ActsOnMagnitude (fun a => fmul a c) (scaleMag (magUnits (fmag c)) (2 ^ 149)) where
  eq a ha := by
    simp only [fmul, ha, isNaN_eq_false_of_finite hfin, isInf_eq_false_of_finite hfin, fsign_of_pos hpos, isZero_of_pos hpos,
      Bool.or_false, Bool.false_eq_true, if_false, Bool.bne_false, isInf_iff, scaleMag]
    split_ifs with hinf hz
    · rw [isZero, beq_iff_eq] at hz; omega
    · rfl
    · rfl
  mono := scaleMag_mono _ _
  zero := scaleMag_zero _ _
  le := scaleMag_le _ _

/-- Division by a positive value scales the magnitude (R120). -/
theorem fdiv_actsOnMagnitude {c : Word} (hfin : isFinite c = true) (hpos : 0 < units c) :
    ActsOnMagnitude (fun a => fdiv a c) (scaleMag (2 ^ 149) (magUnits (fmag c))) where
  eq a ha := by
    simp only [fdiv, ha, isNaN_eq_false_of_finite hfin, isInf_eq_false_of_finite hfin, fsign_of_pos hpos, isZero_of_pos hpos,
      Bool.or_false, Bool.false_eq_true, if_false, Bool.bne_false, isInf_iff, scaleMag]
    split_ifs with hinf
    · rfl
    · rfl
  mono := scaleMag_mono _ _
  zero := scaleMag_zero _ _
  le := scaleMag_le _ _

/-! ## T2F (R131) -/

/-- 12 semitones divide a finite transposition to a finite number of octaves. -/
theorem isFinite_octaves {s : Word} (hs : isFinite s = true) : isFinite (fdiv s 0x41400000#32) = true := by
  have hs' := isFinite_iff.1 hs
  have := fmag_fdiv_le (m := fmag s) hs (by decide) (by decide) hs'.le
    (Nat.mul_le_mul_left _ (show 2 ^ 149 ≤ magUnits (fmag 0x41400000#32) by decide +kernel))
  exact isFinite_iff.2 (by omega)

/-- Settles O16: T2F is Exp2 between a division and a multiplication and division by positive values, each keeping the order. -/
theorem frequencyMonotone : Obligations.FrequencyMonotone := by
  intro f m hm hm0
  have htwelve := fdiv_actsOnMagnitude (c := 0x41400000#32) (by decide) (by decide +kernel)
  have hthousand := fmul_actsOnMagnitude (c := 0x447A0000#32) (by decide) (by decide +kernel)
  have hwindow := fdiv_actsOnMagnitude hm hm0
  have hone : fmul f32One 0x447A0000#32 = 0x447A0000#32 := by decide +kernel
  refine ⟨?_, ?_, fun s s' hs hs' h => ?_⟩
  · rw [transpoToFreq, show fdiv 0x00000000#32 0x41400000#32 = 0x00000000#32 by decide +kernel]
    exact congrArg (fdiv · m) hone
  · rw [transpoToFreq, show fdiv 0x80000000#32 0x41400000#32 = 0x80000000#32 by decide +kernel]
    exact congrArg (fdiv · m) hone
  · have hoctaves := htwelve.units_mono (isNaN_eq_false_of_finite hs) (isNaN_eq_false_of_finite hs') h
    obtain ⟨hnum, hexp⟩ := exp2_mono f (isFinite_octaves hs) (isFinite_octaves hs') hoctaves
    obtain ⟨hnum', -⟩ := exp2_mono f (isFinite_octaves hs') (isFinite_octaves hs') le_rfl
    exact ⟨hwindow.isNaN_eq_false (hthousand.isNaN_eq_false hnum),
      hwindow.units_mono (hthousand.isNaN_eq_false hnum) (hthousand.isNaN_eq_false hnum') (hthousand.units_mono hnum hnum' hexp)⟩

end Sys2Proof.Machine
end

section
/-! PROOF. SinPi has the shape S1 to S4 (R125), and what CVT_S2N and CVT_T2F complete with (R132, R133). -/

namespace Sys2Proof.Machine

/-! ## SinPi (R125) -/

/-- Between 0 and 1 SinPi is a positive encoding of at most 1.0. -/
theorem sinPi_bounds (f : FnChoice) {p : Word} (hp : unitPhase p) (h0 : p ≠ 0#32) :
    ∃ m, 1 ≤ m ∧ m ≤ 0x3F800000 ∧ sinPi f p = w32 m := by
  have h1 : p ≠ f32One := fun h => absurd hp (by rw [h]; decide)
  unfold sinPi
  rw [if_neg (not_or.2 ⟨h0, h1⟩)]
  split_ifs with hhalf
  · exact ⟨0x3F800000, by norm_num, le_rfl, rfl⟩
  · exact ⟨_, (boundNat_mem (by norm_num) _).1, (boundNat_mem (by norm_num) _).2, rfl⟩

/-- Settles O14: S1, S2 and S4 are the model's cases, S3 is the bound on every other result. -/
theorem envelopeProperties : Obligations.EnvelopeProperties := by
  refine fun f => ⟨rfl, rfl, rfl, fun p hp h0 => ?_⟩
  obtain ⟨m, hlo, hhi, hm⟩ := sinPi_bounds f hp h0
  have hmag : fmag (w32 m) = m := fmag_fpack false (by omega)
  have hpos := magUnits_strictMono (show 0 < m from hlo)
  have hle := magUnits_strictMono.monotone hhi
  rw [hm, show units 0x3F800000#32 = magUnits 0x3F800000 from units_w32 (by norm_num), units_w32 (by omega)]
  exact ⟨isNaN_eq_false_iff.2 (by omega), by omega, by omega⟩

/-! ## CVT_S2N (R130, R132) -/

/-- The binary32 of a legal sample rate is finite and positive. -/
theorem i2f_pos {n : Nat} (h1 : 1 ≤ n) (h2 : n ≤ 2 ^ 24) : isFinite (i2f n) = true ∧ 0 < units (i2f n) := by
  have hhi : rneMag (n * 2 ^ 149) 1 ≤ 0x4B800000 := rneMag_le_of_le_mul Nat.one_pos (by norm_num) <| by
    rw [mul_one, show magUnits 0x4B800000 = 2 ^ 24 * 2 ^ 149 by decide +kernel]
    exact Nat.mul_le_mul_right _ h2
  have hlo : 0x3F800000 ≤ rneMag (n * 2 ^ 149) 1 := le_rneMag_of_le (by norm_num) <| by
    rw [magUnits_one]
    exact Nat.le_mul_of_pos_left _ h1
  have hpos := magUnits_strictMono (show 0 < rneMag (n * 2 ^ 149) 1 by omega)
  rw [i2f, rne32, fpack_false]
  refine ⟨isFinite_iff.2 ?_, ?_⟩
  · rw [← fpack_false, fmag_fpack _ (by omega)]; omega
  · rw [units_w32 (by omega)]; omega

/-- Rounding a value that is not negative, -0.0 included, gives a natural number. -/
theorem roundAway_nonneg {x : Word} (h : 0 ≤ units x) : 0 ≤ roundAway x := by
  have hmag := units_of_nonneg h
  unfold units at hmag
  unfold roundAway
  split_ifs at hmag ⊢ with hs
  · rw [show magUnits (fmag x) = 0 by omega]; norm_num
  · positivity

/-- +∞ is the only infinity that is not negative. -/
theorem eq_inf_of_nonneg {x : Word} (h : 0 ≤ units x) (hinf : isInf x = true) : x = f32Inf := by
  have hmag := isInf_iff.1 hinf
  have hpos : 0 < units x := by
    rw [units_of_nonneg h, hmag]
    exact_mod_cast magUnits_strictMono (show 0 < 0x7F800000 by norm_num)
  rw [← fpack_fields x, fsign_of_pos hpos, hmag]
  rfl

/-- Settles O17: on such operands no check of R132 fails, and the product is not negative, so its rounding is the word written. -/
theorem cvtS2nCounts : Obligations.CvtS2nCounts := by
  intro s hfin hsec hlo hhi hne hcount
  obtain ⟨hrate, hrate0⟩ := i2f_pos hlo hhi
  have hnonneg : 0 ≤ units (fmul s.operand0 (i2f s.operand1.toNat)) :=
    (fmul_actsOnMagnitude hrate hrate0).units_nonneg (isNaN_eq_false_of_finite hfin) hsec
  have hround := roundAway_nonneg hnonneg
  have hinf : ¬ isInf (fmul s.operand0 (i2f s.operand1.toNat)) = true := fun h => hne (eq_inf_of_nonneg hnonneg h)
  have hsamples : (secondsToSamples s.operand0 s.operand1.toNat : Int) = roundAway (fmul s.operand0 (i2f s.operand1.toNat)) :=
    Int.toNat_of_nonneg hround
  refine ⟨w32 (secondsToSamples s.operand0 s.operand1.toNat), ?_, ?_⟩
  · rw [← hsamples, BitVec.toNat_ofNat, Nat.mod_eq_of_lt (by omega)]
  · exact (if_neg (by simp [hfin, hsec])).trans <| (if_neg (by simp only [u32]; omega)).trans <|
      (if_neg hinf).trans (if_neg (by simp only [u32]; omega))

/-! ## CVT_T2F (R131, R133) -/

/-- Settles O18: the command has no check, and T2F is the formula. -/
theorem cvtT2fComputes : Obligations.CvtT2fComputes := fun _ => rfl

end Sys2Proof.Machine
end

section
/-! PROOF. The oscillator commands (R151 to R162): each writes one oscillator and completes; and the phase law (R152), by induction over
the calls of OSC_NEXT, on phases that are whole numbers of 2^-b. -/

namespace Sys2Proof.Machine

/-! ## What a legal oscillator command completes with -/

/-- The converse of `wellFormed_oscillator` (R93). -/
theorem wellFormed_of_oscillator {p : Params} {i : Instr} {v ch : Fin 16} (hv : i.voice? = some v.val)
    (hch : i.channel? = some ch.val) (h : v.val < p.nvoice ∧ ch.val < p.nch) : i.wellFormed p = true := by
  simpa [Instr.wellFormed, Instr.voiceLegal, Instr.channelLegal, hv, hch] using h

section

variable {s : State} {v ch : Fin 16} (hwf : v.val < s.params.nvoice ∧ ch.val < s.params.nch)

include hwf

theorem exec_oscInit : exec (.oscInit v ch) s = finish (s.setOsc v ch { s.osc v ch with phase := 0#32 }) :=
  if_pos (wellFormed_of_oscillator rfl rfl hwf)

theorem exec_oscSetFreq (hfin : isFinite s.operand0 = true) :
    exec (.oscSetFreq v ch) s = finish (s.setOsc v ch { s.osc v ch with freq := s.operand0 }) :=
  (if_pos (wellFormed_of_oscillator rfl rfl hwf)).trans (if_pos hfin)

theorem exec_oscSetType (hop : s.operand0 = 0#32) :
    exec (.oscSetType v ch) s = finish (s.setOsc v ch { s.osc v ch with type := 0#2 }) :=
  (if_pos (wellFormed_of_oscillator rfl rfl hwf)).trans (if_pos (by rw [hop]; rfl))

theorem exec_oscSetDebug {d : Bool} (hop : s.operand0 = w32 d.toNat) :
    exec (.oscSetDebug v ch) s = finish (s.setOsc v ch { s.osc v ch with debug := d }) := by
  have hflag : u32 s.operand0 ≤ 1 ∧ (u32 s.operand0 == 1) = d := by rw [hop]; cases d <;> decide
  obtain ⟨hle, hd⟩ := hflag
  exact (if_pos (wellFormed_of_oscillator rfl rfl hwf)).trans ((if_pos hle).trans (by rw [hd]))

theorem exec_oscNext (hp : s.prepared = true) :
    exec (.oscNext v ch) s = finish ((s.oscAdvance v ch).setResult (s.osc v ch).phase) :=
  (if_pos (wellFormed_of_oscillator rfl rfl hwf)).trans (if_pos hp)

/-- The oscillators of a state that has those of one oscillator's write. -/
theorem osc_of_oscs_eq_setOsc {t : State} {o : Osc} (ht : t.oscs = (s.setOsc v ch o).oscs) :
    t.osc v ch = o ∧ ∀ u c, c < 8 → ¬ (u = v.val ∧ c = ch.val) → t.osc u c = s.osc u c := by
  have hosc : ∀ u c, c < 8 → t.osc u c = if u = v.val ∧ c = ch.val then o else s.osc u c := fun u c hc => by
    rw [← State.osc_setOsc s (voice_lt_four hwf.1) (channel_lt_eight hwf.2) o hc, State.osc, ht, State.osc]
  exact ⟨(hosc v ch (channel_lt_eight hwf.2)).trans (if_pos ⟨rfl, rfl⟩), fun u c hc h => (hosc u c hc).trans (if_neg h)⟩

/-- A command that only writes one oscillator leaves every other one, and all else, as after a command that does nothing. -/
theorem finish_setOsc_writesOneOsc {i : Instr} {o : Osc} (h : exec i s = finish (s.setOsc v ch o)) :
    ∃ t, exec i s = .next t ∧ t.osc v ch = o ∧
      (∀ u c, c < 8 → ¬ (u = v.val ∧ c = ch.val) → t.osc u c = s.osc u c) ∧ { t with oscs := s.oscs } = s.afterCommand := by
  obtain ⟨hsame, hother⟩ := osc_of_oscs_eq_setOsc hwf (t := (s.setOsc v ch o).complete) (o := o) rfl
  exact ⟨_, h, hsame, hother, rfl⟩

end

/-- Settles O19: each setter's checks pass, so that it finishes with the write of its oscillator. -/
theorem oscSettersWriteOneField : Obligations.OscSettersWriteOneField := by
  intro s v ch hv hch
  have hwf := And.intro hv hch
  exact ⟨finish_setOsc_writesOneOsc hwf (exec_oscInit hwf),
    fun h => finish_setOsc_writesOneOsc hwf (exec_oscSetFreq hwf h),
    fun h => finish_setOsc_writesOneOsc hwf (exec_oscSetType hwf h),
    fun h => finish_setOsc_writesOneOsc hwf (exec_oscSetDebug hwf (d := false) h),
    fun h => finish_setOsc_writesOneOsc hwf (exec_oscSetDebug hwf (d := true) h)⟩

/-! ## OSC_NEXT (R151, R162) -/

/-- Settles O20: the state OSC_NEXT finishes with is the advanced oscillator and the phase before it. -/
theorem oscNextReturnsThenAdvances : Obligations.OscNextReturnsThenAdvances := by
  intro s v ch hv hch hp
  obtain ⟨hsame, hother⟩ := osc_of_oscs_eq_setOsc ⟨hv, hch⟩
    (t := ((s.oscAdvance v ch).setResult (s.osc v ch).phase).complete) rfl
  exact ⟨_, exec_oscNext ⟨hv, hch⟩ hp, rfl, hsame, hother, rfl⟩

theorem repeatCommand_succ {i : Instr} {k : Nat} {s t u : State} (ht : repeatCommand i k s = some t) (hu : exec i t = .next u) :
    repeatCommand i (k + 1) s = some u := by
  simp only [repeatCommand, ht, hu]

/-- Calls of OSC_NEXT all complete, and after `k` of them the oscillator's phase is `k` steps on. -/
theorem repeat_oscNext {s : State} {v ch : Fin 16} (hwf : v.val < s.params.nvoice ∧ ch.val < s.params.nch) (hp : s.prepared = true)
    (k : Nat) :
    ∃ t, repeatCommand (.oscNext v ch) k s = some t ∧ t.params = s.params ∧ t.prepared = true ∧ t.sr = s.sr ∧
      t.osc v ch = { s.osc v ch with phase := s.phaseAt v ch k } := by
  induction k with
  | zero => exact ⟨s, rfl, rfl, hp, rfl, rfl⟩
  | succ k ih =>
    obtain ⟨t, ht, hparams, hprep, hsr, hosc⟩ := ih
    have hwft : v.val < t.params.nvoice ∧ ch.val < t.params.nch := hparams ▸ hwf
    obtain ⟨hsame, -⟩ := osc_of_oscs_eq_setOsc hwft
      (t := ((t.oscAdvance v ch).setResult (t.osc v ch).phase).complete) rfl
    refine ⟨_, repeatCommand_succ ht (exec_oscNext hwft hprep), hparams, hprep, hsr, ?_⟩
    rw [hsame, State.oscInc, hosc, hsr]
    rfl

/-! ## The phase law (R152) -/

/-- A sum that has an encoding is exact. -/
theorem fadd_exact {a b : Word} {m : Nat} (ha : isFinite a = true) (hb : isFinite b = true) (hm : m < 0x7F800000)
    (h : units a + units b = magUnits m) : isFinite (fadd a b) = true ∧ units (fadd a b) = magUnits m := by
  simp only [fadd, isNaN_eq_false_of_finite ha, isNaN_eq_false_of_finite hb, isInf_eq_false_of_finite ha,
    isInf_eq_false_of_finite hb, Bool.or_self, Bool.false_eq_true, if_false, h, isFinite_iff, Int.natAbs_natCast]
  split_ifs with h0
  · rw [fmag_fpack _ (by norm_num), units_fpack _ (by norm_num), h0]
    exact ⟨by norm_num, ite_self _⟩
  · rw [fmag_rne32, rneMag_magUnits hm.le, show decide ((magUnits m : Int) < 0) = false by simp, rne32, rneMag_magUnits hm.le,
      fpack_false, units_w32 (by omega)]
    exact ⟨hm, rfl⟩

/-- `x` is the finite value c / 2^b, for b ≤ 149. -/
def Dyadic (b c : Nat) (x : Word) : Prop := isFinite x = true ∧ units x = c * 2 ^ (149 - b)

/-- Of a dyadic phase and increment below 1, the sum is exact, having at most 24 bits, and its fractional part is. -/
theorem mod1_fadd_dyadic {a b c : Nat} {p inc : Word} (hb : b ≤ 23) (hc : c < 2 ^ b) (ha : a < 2 ^ b) (hp : Dyadic b c p)
    (hinc : Dyadic b a inc) : Dyadic b ((c + a) % 2 ^ b) (mod1 (fadd p inc)) := by
  obtain ⟨hpfin, hpu⟩ := hp
  obtain ⟨hincfin, hincu⟩ := hinc
  have hone : 2 ^ b * 2 ^ (149 - b) = 2 ^ 149 := by rw [← pow_add, Nat.add_sub_cancel' (by omega)]
  have hpow : 2 ^ b ≤ 2 ^ 23 := Nat.pow_le_pow_right (by norm_num) hb
  obtain ⟨m, hm⟩ := exists_magUnits_eq_mul_pow (149 - b) (c + a) (by omega)
  have hlt : m < 0x40000000 := by
    refine magUnits_strictMono.lt_iff_lt.1 ?_
    calc magUnits m < 2 * 2 ^ b * 2 ^ (149 - b) := hm ▸ Nat.mul_lt_mul_of_pos_right (by omega) (Nat.two_pow_pos _)
      _ = magUnits 0x40000000 := by rw [mul_assoc, hone]; decide +kernel
  obtain ⟨hfin, hsum⟩ := fadd_exact hpfin hincfin (m := m) (by omega) (by rw [hpu, hincu, hm]; push_cast; ring)
  refine ⟨isFinite_iff.2 ?_, ?_⟩
  · have := mod1_unitPhase hfin
    rw [unitPhase] at this
    rw [fmag]
    omega
  · have hfrac : (c + a) * 2 ^ (149 - b) % 2 ^ 149 = (c + a) % 2 ^ b * 2 ^ (149 - b) := by rw [← hone, Nat.mul_mod_mul_right]
    rw [units_mod1 hfin (by omega), hsum, hm]
    exact_mod_cast hfrac

theorem phaseAfter_dyadic {a b : Nat} {p inc : Word} (hb : b ≤ 23) (ha : a < 2 ^ b) (hp : Dyadic b 0 p) (hinc : Dyadic b a inc)
    (k : Nat) : Dyadic b (k * a % 2 ^ b) (phaseAfter inc p k) := by
  induction k with
  | zero => simpa [phaseAfter] using hp
  | succ k ih =>
    have hstep := mod1_fadd_dyadic hb (Nat.mod_lt _ (Nat.two_pow_pos b)) ha ih hinc
    rwa [Nat.mod_add_mod, ← Nat.succ_mul] at hstep

/-- Settles O21: call k + 1 returns the phase `k` steps on from +0.0, which is dyadic. -/
theorem phaseLawExact : Obligations.PhaseLawExact := by
  intro s v ch a b k hv hch hp hphase hb ha hfin hinc
  obtain ⟨t, ht, hparams, hprep, -, hosc⟩ := repeat_oscNext ⟨hv, hch⟩ hp k
  have hzero : Dyadic b 0 (s.osc v ch).phase := by rw [hphase]; exact ⟨by decide, by simp [units, fmag, fsign, magUnits]⟩
  obtain ⟨hrfin, hru⟩ := phaseAfter_dyadic hb ha hzero ⟨hfin, hinc⟩ k
  have hresult : (t.osc v ch).phase = s.phaseAt v ch k := by rw [hosc]
  refine ⟨t, _, ht, exec_oscNext (hparams ▸ ⟨hv, hch⟩) hprep, ?_, ?_⟩
  · exact hresult ▸ hrfin
  · exact hresult ▸ hru

end Sys2Proof.Machine
end

section
/-! PROOF. The ring-buffer commands (R181 to R190): what RB_CONFIGURE sets, what RB_INIT clears, where RB_WRITE stores each sample
of a block, what RB_READ returns, and that a block written reads back. -/

namespace Sys2Proof.Machine

/-! ## RB_CONFIGURE (R181) -/

theorem w32_toNat (w : Word) : w32 w.toNat = w := by simp [w32]

/-- On legal operands no check of R181 fails. -/
theorem exec_rbConfigure {s : State} (hcap : 1 ≤ s.operand0.toNat) (hcap' : s.operand0.toNat ≤ Config.capMax)
    (hblk : 1 ≤ s.operand1.toNat) (hblk' : s.operand1.toNat ≤ Config.blockMax) :
    exec .rbConfigure s = finish { s with cap := s.operand0, blksz := s.operand1, wptr := 0#32 } := by
  have hexec : exec .rbConfigure s =
      finish { s with cap := w32 s.operand0.toNat, blksz := w32 s.operand1.toNat, wptr := 0#32 } :=
    (if_neg (by simp only [u32]; omega)).trans (if_neg (by simp only [u32]; omega))
  rwa [w32_toNat, w32_toNat] at hexec

/-- An RB_CONFIGURE with an operand out of its range only aborts (R181). -/
theorem exec_rbConfigure_of_illegal {s : State} (h : ¬ (1 ≤ s.operand0.toNat ∧ s.operand0.toNat ≤ Config.capMax ∧
    1 ≤ s.operand1.toNat ∧ s.operand1.toNat ≤ Config.blockMax)) : exec .rbConfigure s = raise .rbConfigure .badArgument s := by
  by_cases hcap : s.operand0.toNat < 1 ∨ Config.capMax < s.operand0.toNat
  · exact if_pos hcap
  · have hblk : s.operand1.toNat < 1 ∨ Config.blockMax < s.operand1.toNat := by omega
    exact (if_neg hcap).trans (if_pos hblk)

/-- Settles O22: the command finishes with the three registers set. -/
theorem rbConfigureSetsGeometry : Obligations.RbConfigureSetsGeometry :=
  fun _ hcap hcap' hblk hblk' => exec_rbConfigure hcap hcap' hblk hblk'

/-! ## RB_INIT (R182) -/

/-- Clearing the ring clears the channel of every channel there is. -/
theorem ringMem_ringClear (n : Nat) (s : State) (c : Nat) :
    (s.ringClear n).ringMem c = if c < s.params.nch then (s.ringMem c).fillZero n else s.ringMem c := by
  refine loop_induct (fun k (t : State) => t.ringMem c = if c < k then (s.ringMem c).fillZero n else s.ringMem c)
    (by simp) fun k t hk ht => ?_
  rw [State.ringMem_ringFillZero t (channel_lt_eight hk)]
  by_cases hck : c = k
  · subst hck
    rw [if_pos rfl, if_pos (Nat.lt_succ_self c), ht, if_neg (lt_irrefl c)]
  · rw [if_neg hck, ht]
    exact if_congr (by omega) rfl rfl

theorem exec_rbInit {s : State} (hcap : s.cap ≠ 0#32) :
    exec .rbInit s = finish { s.ringClear s.cap.toNat with wptr := 0#32 } := if_neg (State.cap_toNat_ne_zero hcap)

/-- Settles O23: the cells read as the fill of each channel says. -/
theorem rbInitZeroFills : Obligations.RbInitZeroFills := by
  intro s hm hcap
  refine ⟨_, exec_rbInit hcap, fun ch i hch => ?_, ?_⟩
  · change ((s.ringClear s.cap.toNat).ringMem ch).read i = _
    rw [ringMem_ringClear]
    by_cases hn : ch < s.params.nch
    · simp only [hn, if_true, true_and, Memory.read_fillZero (hm ch hch).1]
    · simp only [hn, if_false, false_and]
  · rw [State.ringClear_frame]; rfl

/-! ## RB_WRITE (R183, R184) -/

/-- The memory `m'` is `m` with the first `k` samples of `block` stored, sample j at `cell j`, a later sample over an earlier one.
-/
structure BlockStored (m : Memory) (block : Nat → Option Word) (cell : Nat → Nat) (k : Nat) (m' : Memory) : Prop where
  /-- It is canonical. -/
  wf : m'.wf
  /-- The cell of a sample that no later one overwrites. -/
  stored : ∀ j, j < k → (∀ l, j < l → l < k → cell l ≠ cell j) → m'.read (cell j) = block j
  /-- The cells of no sample. -/
  kept : ∀ i, (∀ j, j < k → cell j ≠ i) → m'.read i = m.read i

namespace BlockStored

variable {m m' : Memory} {block : Nat → Option Word} {cell : Nat → Nat} {k : Nat}

theorem start (h : m.wf) : BlockStored m block cell 0 m := ⟨h, fun _ hj => absurd hj (Nat.not_lt_zero _), fun _ _ => rfl⟩

theorem next (h : BlockStored m block cell k m') {x : Word} (hx : block k = some x) :
    BlockStored m block cell (k + 1) (m'.write (cell k) x) := by
  refine ⟨Memory.write_wf h.wf _ _, fun j hj hlast => ?_, fun i hi => ?_⟩
  · rw [Memory.read_write h.wf]
    rcases Nat.lt_succ_iff_lt_or_eq.1 hj with hlt | rfl
    · rw [if_neg (hlast k hlt (Nat.lt_succ_self k)).symm]
      exact h.stored j hlt fun l hjl hlk => hlast l hjl (Nat.lt_succ_of_lt hlk)
    · rw [if_pos rfl, hx]
  · rw [Memory.read_write h.wf, if_neg (hi k (Nat.lt_succ_self k)).symm]
    exact h.kept i fun j hj => hi j (Nat.lt_succ_of_lt hj)

end BlockStored

namespace State

/-- The ring cell of sample `j` of the next block (R183). -/
def blockCell (s : State) (j : Nat) : Nat := (s.wptr.toNat + j) % s.cap.toNat

theorem ioRead_eq_ok {s : State} {ch n : Nat} {x : Word} : s.ioRead ch n = .ok x ↔ (s.ioMem ch).read n = some x := by
  unfold ioRead
  cases (s.ioMem ch).read n <;> simp

/-- The channels of `t` below `k` hold the block of `s`, the others what they do in `s`. -/
def channelsStored (s : State) (k : Nat) (t : State) : Prop :=
  ∀ c, c < 8 → if c < k then BlockStored (s.ringMem c) (s.ioMem c).read s.blockCell s.blksz.toNat (t.ringMem c)
    else t.ringMem c = s.ringMem c

/-- One channel of RingWriteBlock, from a state that is `s` but for the ring (R183). -/
theorem ringWriteChannel_stored {s u v : State} {ch : Nat} (hch : ch < 8) (hu : s.sameButRing u) (hwf : (u.ringMem ch).wf)
    (h : u.ringWriteChannel ch = .ok v) :
    s.sameButRing v ∧ BlockStored (u.ringMem ch) (s.ioMem ch).read s.blockCell s.blksz.toNat (v.ringMem ch) ∧
      ∀ c, c ≠ ch → v.ringMem c = u.ringMem c := by
  have hblk : u.blksz = s.blksz := by obtain ⟨r, rfl⟩ := hu; rfl
  rw [ringWriteChannel, hblk] at h
  refine loopE_induct (fun k (w : State) => s.sameButRing w ∧
    BlockStored (u.ringMem ch) (s.ioMem ch).read s.blockCell k (w.ringMem ch) ∧ ∀ c, c ≠ ch → w.ringMem c = u.ringMem c)
    ⟨hu, .start hwf, fun _ _ => rfl⟩ (fun k w w' _ hw hw' => ?_) h
  obtain ⟨⟨r, rfl⟩, hst, hother⟩ := hw
  obtain ⟨x, hx, hw'⟩ := andThen_eq_ok.1 hw'
  cases hw'
  refine ⟨⟨_, rfl⟩, ?_, fun c hc => ?_⟩
  · rw [ringMem_ringWrite _ hch, if_pos rfl]
    exact hst.next (ioRead_eq_ok.1 hx)
  · rw [ringMem_ringWrite _ hch, if_neg hc]
    exact hother c hc

/-- RingWriteBlock stores the block in every channel there is (R183). -/
theorem ringWriteBlock_stored {s t : State} (hm : s.memoryLegal) (h : s.ringWriteBlock = .ok t) :
    s.channelsStored s.params.nch t := by
  obtain ⟨u, hu, ht⟩ := andThen_eq_ok.1 h
  cases ht
  suffices hk : s.sameButRing u ∧ s.channelsStored s.params.nch u from hk.2
  refine loopE_induct (fun k (u : State) => s.sameButRing u ∧ s.channelsStored k u)
    ⟨⟨s.ring, rfl⟩, fun c _ => by simp⟩ (fun ch u v hch hu hv => ?_) hu
  obtain ⟨hsame, hst⟩ := hu
  have hch8 : ch < 8 := channel_lt_eight hch
  have hring : u.ringMem ch = s.ringMem ch := by simpa using hst ch hch8
  obtain ⟨hsame', hstored, hother⟩ := ringWriteChannel_stored hch8 hsame (hring ▸ (hm ch hch8).1) hv
  refine ⟨hsame', fun c hc => ?_⟩
  rcases eq_or_ne c ch with rfl | hne
  · rw [if_pos (Nat.lt_succ_self c), ← hring]
    exact hstored
  · rw [hother c hne]
    have hlt : c < ch + 1 ↔ c < ch := by omega
    simp only [hlt]
    exact hst c hc

end State

/-- Settles O24: the block is defined, so every channel is stored. -/
theorem rbWriteStoresBlock : Obligations.RbWriteStoresBlock := by
  intro s hm hcap hb
  obtain ⟨u, hu, -⟩ := s.ringWriteBlock_runs.succeeds fun h => State.not_blockDefined_iff.2 h hb
  have hst := State.ringWriteBlock_stored hm hu
  refine ⟨u.complete, by rw [exec_rbWrite hcap, hu]; rfl, fun ch hch j hj hlast => ?_, fun ch i hch hi => ?_, ?_⟩
  · have hstored := hst ch (channel_lt_eight hch)
    rw [if_pos hch] at hstored
    exact hstored.stored j hj hlast
  · have hstored := hst ch hch
    split_ifs at hstored with hn
    · exact hstored.kept i (hi hn)
    · exact congrArg (Memory.read · i) hstored
  · rw [State.ringWriteBlock_frame hu]; rfl

/-! ## RB_READ (R187, R188, R189) -/

theorem agedSample_eq (s : State) (ch : Nat) (a : Int) : s.agedSample ch a = ((s.ringMem ch).read (s.ageCell a)).getD 0#32 := rfl

theorem ringRead_defined {s : State} {ch : Nat} {a : Int} (h : ((s.ringMem ch).read (s.ageCell a)).isSome = true) :
    s.ringRead ch (s.ageCell a) = .ok (s.agedSample ch a) := by
  rw [State.ringRead, agedSample_eq]
  cases hx : (s.ringMem ch).read (s.ageCell a) with
  | none => rw [hx] at h; cases h
  | some x => rfl

/-- In range, with the ring defined, an interpolated read has the value R187 writes out. -/
theorem interpolate_eq_readAt {s : State} {ch : Nat} {n : Int} {d : Word} (hch : ch < s.params.nch) (hcap : s.cap ≠ 0#32)
    (hring : s.ringDefined) (hr : s.tapsInRange n d) : s.interpolate ch n d = .ok (s.readAt ch n d) := by
  have hdef := fun a => ringRead_defined (hring ch hch _ (State.ageCell_lt hcap a))
  rw [State.interpolate, State.readAt, if_pos hr, show s.newerAge n d = s.tapAge n d from rfl, hdef, andThen_ok]
  cases hz : isZero (splitFrac d) with
  | true => simp only [if_true]
  | false => simp only [Bool.false_eq_true, if_false, State.olderAge_of_fraction hz, hdef, andThen_ok]

theorem exec_rbRead {s : State} {ch : Fin 16} (hch : ch.val < s.params.nch) (hcap : s.cap ≠ 0#32) :
    exec (.rbRead ch) s = finishE (andThen (s.ringReadInterp (sourceOf (encode (.rbRead ch))) ch (i32 s.operand0) s.operand1)
      fun r => .ok (r.1.setResult r.2)) := by
  have hwf : (Instr.rbRead ch).wellFormed s.params = true := by
    simp [Instr.wellFormed, Instr.voiceLegal, Instr.channelLegal, Instr.voice?, Instr.channel?, hch]
  exact (if_pos hwf).trans (if_neg (State.cap_toNat_ne_zero hcap))

/-- Recording error 7 with the fields of RB_READ's word, at the command's end (R25, R254). -/
theorem abort_rbRead (ch : Fin 16) (s : State) :
    s.abort .readRange (sourceOf (encode (.rbRead ch))) = s.afterError 7 12 0x23 0 ch := by
  have hword : (encode (.rbRead ch)).toNat = 0x23 + 4096 * ch.val := by
    simp only [encode, fieldsWord, BitVec.toNat_ofNat]
    omega
  have hop : (encode (.rbRead ch)).toNat % 256 = 0x23 := by omega
  have hv : (encode (.rbRead ch)).toNat / 256 % 16 = 0 := by omega
  have hch : (encode (.rbRead ch)).toNat / 4096 % 16 = ch.val := by omega
  rw [abort_sourceOf .readRange rfl, hop, hv, hch]
  rfl

/-- Settles O25: the read is in range exactly when its taps are. -/
theorem rbReadInterpolates : Obligations.RbReadInterpolates := by
  intro s ch hch hcap n
  have hexec := exec_rbRead hch hcap
  rw [show i32 s.operand0 = n from rfl, State.ringReadInterp] at hexec
  refine ⟨fun hr hring => ?_, fun hr => ?_⟩
  · rw [hexec, if_pos (State.readInRange_iff.2 hr), interpolate_eq_readAt hch hcap hring hr]
    rfl
  · rw [hexec, if_neg (mt State.readInRange_iff.1 hr), ← abort_rbRead]
    rfl

/-! ## The round trip (R190) -/

/-- A read at zero delay, at an index whose sample is in the ring, is that sample (R187). -/
theorem readAt_zero {s : State} {ch : Nat} {m : Int} (h : m < s.blksz.toNat) (h' : (s.blksz.toNat : Int) - s.cap.toNat ≤ m) :
    s.readAt ch m 0#32 = s.agedSample ch (s.blksz.toNat - 1 - m) := by
  have hsplit : splitInt 0#32 = 0 ∧ isZero (splitFrac 0#32) = true := by decide +kernel
  have hage : s.tapAge m 0#32 = s.blksz.toNat - 1 - m := by rw [State.tapAge, hsplit.1]; simp
  have hr : s.tapsInRange m 0#32 := by
    refine ⟨by decide, by decide, ?_, ?_⟩
    · omega
    · rw [hsplit.2, hage]; simp only [if_true]; omega
  rw [State.readAt, if_pos hr, hage, if_pos hsplit.2]

theorem add_emod_ne {w i j c : Int} (h : i < j) (h' : j < i + c) : (w + i) % c ≠ (w + j) % c := by
  intro heq
  have hdvd : c ∣ j - i := (Int.ModEq.add_left_cancel' w heq).dvd
  have := Int.le_of_dvd (by omega) hdvd
  omega

/-- With the cursor a block further on, the sample at index `m` of the block is in the cell `m` after the cursor before (R183,
R186). -/
theorem ageCell_after_block {s t : State} (hcap : s.cap ≠ 0#32) (hcapt : t.cap = s.cap)
    (hwptr : t.wptr = w32 ((s.wptr.toNat + s.blksz.toNat) % s.cap.toNat)) (m : Int) :
    t.ageCell (s.blksz.toNat - 1 - m) = ((s.wptr.toNat + m) % (s.cap.toNat : Int)).toNat := by
  have hw : ((s.wptr.toNat + s.blksz.toNat) % s.cap.toNat) % 2 ^ 32 = (s.wptr.toNat + s.blksz.toNat) % s.cap.toNat :=
    Nat.mod_eq_of_lt ((Nat.mod_lt _ (Nat.pos_of_ne_zero (State.cap_toNat_ne_zero hcap))).trans s.cap.isLt)
  have hage : ((s.wptr.toNat + s.blksz.toNat : Nat) : Int) - (s.blksz.toNat - m) = s.wptr.toNat + m := by omega
  rw [State.ageCell, hcapt, hwptr, BitVec.toNat_ofNat, hw, Int.natCast_mod, Int.sub_sub,
    show (1 : Int) + (s.blksz.toNat - 1 - m) = s.blksz.toNat - m by omega, Int.emod_sub_emod, hage]

/-- Settles O27: with BLKSZ ≤ CAP each sample of the block has a cell of its own, and the cells of the samples before it in reach
are others. -/
theorem blockRoundTrip : Obligations.BlockRoundTrip := by
  intro s t ch hm hcap hle hb ht hch
  obtain ⟨t', ht', hstored, hkept, hframe⟩ := rbWriteStoresBlock s hm hcap hb
  obtain rfl : t = t' := by rw [ht] at ht'; cases ht'; rfl
  have hcapt : t.cap = s.cap := (congrArg State.cap hframe :)
  have hblkt : t.blksz = s.blksz := (congrArg State.blksz hframe :)
  have hcell := ageCell_after_block hcap hcapt (congrArg State.wptr hframe :)
  have hread : ∀ m : Int, m < s.blksz.toNat → (s.blksz.toNat : Int) - s.cap.toNat ≤ m →
      t.readAt ch m 0#32 = ((t.ringMem ch).read ((s.wptr.toNat + m) % (s.cap.toNat : Int)).toNat).getD 0#32 := fun m h h' => by
    rw [readAt_zero (by rw [hblkt]; exact h) (by rw [hblkt, hcapt]; exact h'), agedSample_eq, hblkt, hcell]
  refine ⟨fun m hlt => ?_, fun m hneg hlo => ?_⟩
  · have hown := hstored ch hch m hlt fun l hml hl heq =>
      add_emod_ne (w := s.wptr.toNat) (c := s.cap.toNat) (Int.ofNat_lt.2 hml) (by omega) (by exact_mod_cast heq.symm)
    obtain ⟨x, hx⟩ := Option.isSome_iff_exists.1 (hb ch hch m hlt)
    rw [hread m (by omega) (by omega), ← Nat.cast_add, ← Int.natCast_mod, Int.toNat_natCast, hown, hx]
    rfl
  · rw [hread m (by omega) hlo, readAt_zero (by omega) (by omega), agedSample_eq, hkept ch _ (channel_lt_eight hch)]
    · rw [State.ageCell, show (s.wptr.toNat : Int) - 1 - (s.blksz.toNat - 1 - (m + s.blksz.toNat)) = s.wptr.toNat + m by omega]
    · intro _ j hj heq
      refine add_emod_ne (w := s.wptr.toNat) (c := s.cap.toNat) (i := m) (j := j) (by omega) (by omega) ?_
      have hnonneg := Int.emod_nonneg ((s.wptr.toNat : Int) + m) (Int.natCast_ne_zero.2 (State.cap_toNat_ne_zero hcap))
      rw [← Int.toNat_of_nonneg hnonneg, ← heq, Int.natCast_mod, Nat.cast_add]

end Sys2Proof.Machine
end

section
/-! SUPPORT. Whole numbers as binary32 values, and the sample counts of the engine (R127, R130): the capacity is the rate, and no
window is longer than 300 ms. -/

namespace Sys2Proof.Machine

/-! ## Whole numbers (R127) -/

theorem fsign_i2f (n : Nat) : fsign (i2f n) = false := fsign_fpack false (rneMag_lt _ _)

/-- Up to 2^24 a whole number is a binary32 value. -/
theorem i2f_exact {n : Nat} (h : n ≤ 2 ^ 24) : isFinite (i2f n) = true ∧ magUnits (fmag (i2f n)) = n * 2 ^ 149 := by
  obtain ⟨m, hm⟩ : ∃ m, magUnits m = n * 2 ^ 149 := by
    rcases Nat.lt_or_eq_of_le h with hlt | rfl
    · exact exists_magUnits_eq_mul_pow 149 n hlt
    · exact ⟨0x4B800000, by decide +kernel⟩
  have hle : m ≤ 0x4B800000 := by
    refine magUnits_strictMono.le_iff_le.1 ?_
    calc magUnits m ≤ 2 ^ 24 * 2 ^ 149 := by rw [hm]; exact Nat.mul_le_mul_right _ h
      _ = magUnits 0x4B800000 := by decide +kernel
  rw [isFinite_iff, i2f, fmag_rne32, ← hm, rneMag_magUnits (by omega)]
  exact ⟨by omega, rfl⟩

theorem units_i2f {n : Nat} (h : n ≤ 2 ^ 24) : units (i2f n) = (n : Int) * 2 ^ 149 := by
  obtain ⟨-, hmag⟩ := i2f_exact h
  rw [units, fsign_i2f, if_neg (by simp), hmag]
  push_cast
  rfl

theorem toNat_roundAway_le (x : Word) : (roundAway x).toNat ≤ (2 * magUnits (fmag x) + 2 ^ 149) / 2 ^ 150 := by
  simp only [roundAway]
  split_ifs <;> omega

theorem fmul_one_left {x : Word} (h : isFinite x = true) : fmul f32One x = x := by
  have hone : magUnits (fmag f32One) = 2 ^ 149 := magUnits_one
  have hsign : (fsign f32One != fsign x) = fsign x := Bool.false_xor _
  simp only [fmul, isNaN_eq_false_of_finite h, isInf_eq_false_of_finite h, hsign, show isNaN f32One = false by decide,
    show isInf f32One = false by decide, Bool.or_self, Bool.false_eq_true, if_false]
  rw [rne32, hone, mul_comm, rneMag_mul_right _ (Nat.two_pow_pos 149), rneMag_magUnits (isFinite_iff.1 h).le, fpack_fields]

/-! ## The capacity and the window in samples (R212, R215) -/

/-- The capacity of one second is the sample rate (R212). -/
theorem capacityFor_eq {sr : Nat} (h : sr ≤ Config.srMax) : capacityFor sr = sr := by
  obtain ⟨hfin, hmag⟩ := i2f_exact (n := sr) (h.trans (by decide))
  simp only [capacityFor, secondsToSamples, fmul_one_left hfin, roundAway, fsign_i2f, hmag, Bool.false_eq_true, if_false]
  omega

/-- The window in ms over 1000, in seconds, is at most the binary32 nearest to 0.3. -/
theorem fmag_windowSeconds_le {m : Word} (hm : inRange Config.winMin Config.winMax m) :
    fmag (fdiv m 0x447A0000#32) ≤ 0x3E99999A := by
  obtain ⟨-, hm300⟩ := fmag_of_window hm
  refine fmag_fdiv_le (isFinite_iff.2 (by omega)) (by decide) (by decide) (by norm_num) ?_
  calc magUnits (fmag m) * 2 ^ 149 ≤ magUnits 0x43960000 * 2 ^ 149 := Nat.mul_le_mul_right _ (magUnits_strictMono.monotone hm300)
    _ ≤ magUnits 0x3E99999A * magUnits (fmag 0x447A0000#32) := by decide +kernel

/-- A window within its bounds is at most 0.3 s of samples, to the nearest (R31, R215). The product with the rate is bounded by the
multiple of 1/16 next above 0.3 times the rate, which is a binary32 value. -/
theorem windowSamples_le {m : Word} {sr : Nat} (hm : inRange Config.winMin Config.winMax m) (hsr : sr ≤ Config.srMax) :
    10 * windowSamples m sr ≤ 3 * sr + 5 := by
  have hsr' : sr ≤ 192000 := hsr
  obtain ⟨hfin, hmag⟩ := i2f_exact (n := sr) (by omega)
  have hsec := fmag_windowSeconds_le hm
  obtain ⟨p, hp⟩ := exists_magUnits_eq_mul_pow 145 (24 * sr / 5 + 1) (by omega)
  have hpfin : p ≤ 0x7F800000 := by
    refine magUnits_strictMono.le_iff_le.1 ?_
    calc magUnits p ≤ 2 ^ 24 * 2 ^ 145 := by rw [hp]; exact Nat.mul_le_mul_right _ (by omega)
      _ ≤ magUnits 0x7F800000 := by decide +kernel
  have hprod : fmag (fmul (fdiv m 0x447A0000#32) (i2f sr)) ≤ p := by
    refine fmag_fmul_le (isFinite_iff.2 (by omega)) hfin hpfin ?_
    calc magUnits (fmag (fdiv m 0x447A0000#32)) * magUnits (fmag (i2f sr))
        ≤ magUnits 0x3E99999A * (sr * 2 ^ 149) := hmag ▸ Nat.mul_le_mul_right _ (magUnits_strictMono.monotone hsec)
      _ = 10066330 * sr * 2 ^ 124 * 2 ^ 149 := by rw [show magUnits 0x3E99999A = 10066330 * 2 ^ 124 by decide +kernel]; ring
      _ ≤ (24 * sr / 5 + 1) * 2 ^ 21 * 2 ^ 124 * 2 ^ 149 :=
        Nat.mul_le_mul_right _ (Nat.mul_le_mul_right _ (by omega))
      _ = magUnits p * 2 ^ 149 := by rw [hp]; ring
  have hmagp := magUnits_strictMono.monotone hprod
  have hround : windowSamples m sr ≤ (24 * sr / 5 + 1 + 8) / 16 := (toNat_roundAway_le _).trans (by omega)
  omega

end Sys2Proof.Machine
end

section
/-! PROOF. The capacity bound (R191, R223): what it says of the engine's reads, that PREPARE establishes it, and that every step
but a reset and a completing RB_CONFIGURE keeps it. -/

namespace Sys2Proof.Machine

/-! ## What the bound says (R191) -/

/-- The older tap of a read at a delay of at most `w` samples is at most `w` samples behind the read's sample (R187). -/
theorem splitInt_add_le {d : Word} {w : Nat} (hd : 0 ≤ units d) (h : units d ≤ (w : Int) * 2 ^ 149) :
    splitInt d + (if isZero (splitFrac d) then 0 else 1) ≤ w := by
  rw [units_of_nonneg hd] at h
  have hle : magUnits (fmag d) ≤ w * 2 ^ 149 := by exact_mod_cast h
  unfold splitInt
  split_ifs with hz
  · omega
  · have hfrac : magUnits (fmag d) % 2 ^ 149 ≠ 0 := fun h0 => hz (by rw [splitFrac, h0]; rfl)
    omega

/-- A whole delay has no fraction (R127). -/
theorem split_i2f {w : Nat} (h : w ≤ 2 ^ 24) : splitInt (i2f w) = w ∧ isZero (splitFrac (i2f w)) = true := by
  obtain ⟨-, hmag⟩ := i2f_exact h
  rw [splitInt, splitFrac, hmag, Nat.mul_div_cancel _ (Nat.two_pow_pos 149), Nat.mul_mod_left]
  exact ⟨rfl, rfl⟩

/-- Settles O28: a delay of at most W puts the older tap at most W further back than the read's sample, and the delay W puts it
exactly there. -/
theorem capacityBoundExact : Obligations.CapacityBoundExact := by
  intro s hblk hw
  refine ⟨fun h => ?_, fun hcap n d hn hfin hd hdw => ?_⟩
  · obtain ⟨hfin, -⟩ := i2f_exact hw
    obtain ⟨hint, hzero⟩ := split_i2f hw
    have hunits := units_i2f hw
    obtain ⟨-, -, -, hold⟩ := h 0 (i2f s.winSamp.toNat) hblk hfin (by omega) hunits.le
    rw [hzero, State.tapAge, hint] at hold
    simp only [if_true] at hold
    omega
  · have hsplit := splitInt_add_le hd hdw
    refine ⟨hfin, hd, ?_, ?_⟩
    · unfold State.tapAge; omega
    · unfold State.tapAge; split_ifs at hsplit ⊢ <;> omega

/-! ## PREPARE establishes it (R223) -/

/-- With the window within its bounds and the capacity the rate, the largest block leaves room for two windows (R223). -/
theorem block_add_windows_le {m : Word} {sr : Nat} (hm : inRange Config.winMin Config.winMax m) (hlo : Config.srMin ≤ sr)
    (hhi : sr ≤ Config.srMax) : Config.blockMax + 2 * windowSamples m sr ≤ sr := by
  have hwin := windowSamples_le hm hhi
  simp only [Config.srMin, Config.blockMax] at *
  omega

theorem capacityEnough_of_preparedRange {s : State} (h : s.preparedRange) : s.capacityEnough := by
  obtain ⟨⟨hrate, hparams, -⟩, hwin, hprep, hcap, -, hblk⟩ := h
  obtain ⟨hlo, hhi⟩ := hrate.1 hprep
  have hroom := block_add_windows_le hparams.1 hlo hhi
  have hw : s.winSamp.toNat ≤ windowSamples s.winMs s.sr.toNat := by rw [hwin hprep, BitVec.toNat_ofNat]; exact Nat.mod_le _ _
  rw [State.capacityEnough, hcap]
  omega

/-- PREPARE sets what the bound rests on (R212). -/
theorem prepareWith_preparedRange {s : State} (h : s.engineLegal) {sr blk : Word} (hlo : Config.srMin ≤ sr.toNat)
    (hhi : sr.toNat ≤ Config.srMax) (hblk : 1 ≤ blk.toNat) (hblk' : blk.toNat ≤ Config.blockMax) :
    (s.prepareWith sr.toNat blk.toNat).preparedRange := by
  obtain ⟨-, hp, ho⟩ := h
  obtain ⟨hp', ho'⟩ := prepareWith_legal hp ho sr.toNat blk.toNat
  have hframe := State.prepareWith_frame sr.toNat blk.toNat s
  rw [capacityFor_eq hhi, w32_toNat, w32_toNat] at hframe
  have hrate : (s.prepareWith sr.toNat blk.toNat).rateLegal := by
    rw [hframe]; exact ⟨fun _ => ⟨hlo, hhi⟩, fun h => absurd h (by simp)⟩
  have hwin : (s.prepareWith sr.toNat blk.toNat).windowDerived := by rw [hframe]; exact fun _ => rfl
  exact ⟨⟨hrate, hp', ho'⟩, hwin, by rw [hframe], by rw [hframe], by rw [hframe]; exact ⟨hblk, hblk'⟩⟩

/-- On legal operands the capacity check of PREPARE passes (R212, R223). -/
theorem exec_prepare {s : State} (hlo : Config.srMin ≤ s.operand0.toNat) (hhi : s.operand0.toNat ≤ Config.srMax)
    (hblk : 1 ≤ s.operand1.toNat) (hblk' : s.operand1.toNat ≤ Config.blockMax) :
    exec .prepare s = finish (s.prepareWith s.operand0.toNat s.operand1.toNat) := by
  have hroom := block_add_windows_le (m := Config.winMax) (by decide +kernel) hlo hhi
  have hcap : s.operand0.toNat ≤ Config.capMax := hhi
  exact (if_neg (by simp only [u32]; omega)).trans <| (if_neg (by simp only [u32]; omega)).trans <|
    if_neg (by simp only [u32, capacityFor_eq hhi]; omega)

/-! ## Every other step keeps it -/

theorem preparedRange_of_sameBlock {s t : State} (h : SameBlock s t) (hs : s.preparedRange) : t.preparedRange := by
  simpa only [State.preparedRange, State.engineLegal, State.rateLegal, State.parametersLegal, State.oscillatorsLegal,
    State.windowDerived, h.params, h.voice, h.osc, h.winMs, h.winSamp, h.prepared, h.sr, h.cap, h.blksz] using hs

/-- Only PREPARE and RB_CONFIGURE change the capacity and the block size (R45, R72). -/
theorem effect_geometry {s u : State} {i : Instr} (h : CommandEffect s i u) :
    (u.cap = s.cap ∧ u.blksz = s.blksz) ∨ i = .prepare ∨ i = .rbConfigure := by
  cases h with
  | prepare => exact .inr (.inl rfl)
  | rbConfigure => exact .inr (.inr rfl)
  | setTranspo v c t hv hx hc ht => rw [State.voiceFreqUpdate_frame, ht, State.noteClamp_frame]; exact .inl ⟨rfl, rfl⟩
  | setWindow c => rw [State.allFreqUpdate_frame, State.noteClamp_frame]; exact .inl ⟨rfl, rfl⟩
  | process _ hp hu => rw [State.processBlock_frame hu]; exact .inl ⟨rfl, rfl⟩
  | rbInit => rw [State.ringClear_frame]; exact .inl ⟨rfl, rfl⟩
  | rbWrite _ hcap hu => rw [State.ringWriteBlock_frame hu]; exact .inl ⟨rfl, rfl⟩
  | rbRead ch src n d r hch hsrc hr => rw [State.ringReadInterp_frame hr]; exact .inl ⟨rfl, rfl⟩
  | _ => exact .inl ⟨rfl, rfl⟩

theorem effect_preparedRange {s u : State} {i : Instr} (h : CommandEffect s i u) (hi : i ≠ .rbConfigure) (hs : s.preparedRange) :
    u.preparedRange := by
  have ⟨hengine, hwin, hprep, hcap, hblk, hblk'⟩ := hs
  by_cases hi' : i = .prepare
  · subst hi'
    cases h with
    | prepare hlo hhi hb hb' => exact prepareWith_preparedRange hengine hlo hhi hb hb'
  · obtain ⟨hsr, hp⟩ := (effect_rate h).resolve_right fun h => hi' h.1
    obtain ⟨hucap, hublk⟩ := (effect_geometry h).resolve_right (not_or.2 ⟨hi', hi⟩)
    exact ⟨effect_engineLegal h hengine, effect_windowDerived h hwin, hp.trans hprep, by rw [hucap, hsr, hcap],
      by rw [hublk]; exact ⟨hblk, hblk'⟩⟩

/-- A host access leaves the block's side as it is (R67). -/
theorem hostAccess_sameBlock (a : Access) (s : State) : SameBlock s (hostAccess a s) := by
  rcases hostAccess_cases a s with hq | ⟨off, w, u, -, hu, ht⟩
  · exact hq.block
  · rw [ht]; exact { writeEffect_sameBlock hu with }

/-- A step leaves the block's side as it is, or resets it, or is the executor's turn at a command its word decodes to. -/
theorem step_block_cases {s t : State} (h : step s = .next t) :
    SameBlock s t ∨ (∃ rest, s.inputs = .drive true :: rest) ∨
      ∃ rest e i, s.rst = false ∧ s.executorTurn rest ∧ s.inflight = some e ∧ decode e.word = .ok i ∧
        exec i { s with inputs := rest } = .next t := by
  rcases step_cases h with ⟨rest, hturn, hmove⟩ | hhost
  · rcases executorMove_cases hmove with ⟨-, rfl⟩ | ⟨-, -, rfl⟩ | ⟨e, hr, he, hc⟩
    · exact .inl (QuietStep.refl _).of_inputs.block
    · exact .inl (startNext_quiet _).of_inputs.block
    · rcases completeEntry_cases hc with ⟨i, hi, hx⟩ | ⟨d, -, rfl⟩
      · exact .inr (.inr ⟨rest, e, i, hr, hturn, he, hi, hx⟩)
      · exact .inl (abort_quiet _ e.word _).of_inputs.block
  · rcases hhost with ⟨a, rest, -, rfl⟩ | ⟨level, rest, hin, rfl⟩
    · exact .inl { hostAccess_sameBlock a { s with inputs := rest } with }
    · cases level with
      | true => exact .inr (.inl ⟨rest, hin⟩)
      | false => exact .inl (by constructor <;> rfl)

/-- The word of RB_CONFIGURE in flight at the executor's turn, with legal operands, is what `configures` says. -/
theorem configures_of_turn {s : State} {rest : List Event} {e : Entry} (hr : s.rst = false) (hturn : s.executorTurn rest)
    (he : s.inflight = some e) (hi : decode e.word = .ok .rbConfigure) (hcap : 1 ≤ s.operand0.toNat)
    (hcap' : s.operand0.toNat ≤ Config.capMax) (hblk : 1 ≤ s.operand1.toNat) (hblk' : s.operand1.toNat ≤ Config.blockMax) :
    s.configures := by
  refine ⟨hr, ?_, ?_, hcap, hcap', hblk, hblk'⟩
  · rcases hturn with ⟨hin, -⟩ | hin
    · exact .inl hin
    · exact .inr (by rw [hin]; rfl)
  · rw [he, Option.map_some, ← encode_of_decode hi]; rfl

theorem step_preparedRange {s t : State} (hs : s.preparedRange) (h : step s = .next t) (hc : ¬ s.configures)
    (hr : ∀ rest, s.inputs ≠ .drive true :: rest) : t.preparedRange := by
  rcases step_block_cases h with hb | ⟨rest, hin⟩ | ⟨rest, e, i, hrst, hturn, he, hi, hx⟩
  · exact preparedRange_of_sameBlock hb hs
  · exact absurd hin (hr rest)
  · have hs' : { s with inputs := rest }.preparedRange := hs
    by_cases hconf : i = .rbConfigure
    · subst hconf
      rw [exec_rbConfigure_of_illegal (s := { s with inputs := rest }) fun ⟨h1, h2, h3, h4⟩ =>
        hc (configures_of_turn hrst hturn he hi h1 h2 h3 h4), raise_eq_next] at hx
      exact hx ▸ preparedRange_of_sameBlock (abort_sameBlock _ _ _) hs'
    · rcases exec_cases hx with ⟨c, w, rfl⟩ | ⟨u, hu, rfl⟩
      · exact preparedRange_of_sameBlock (abort_sameBlock _ _ _) hs'
      · exact preparedRange_of_sameBlock (complete_sameBlock u) (effect_preparedRange hu hconf hs')

/-- Settles O38: PREPARE sets CAP = SR, which holds two windows of at most 0.3 s and a block; every other effect but
RB_CONFIGURE's keeps both registers, and a legal RB_CONFIGURE at its turn is what `configures` excludes. -/
theorem capacityHoldsUntilConfigured : Obligations.CapacityHoldsUntilConfigured :=
  ⟨fun _ hs hlo hhi hblk hblk' => ⟨_, exec_prepare hlo hhi hblk hblk',
      preparedRange_of_sameBlock (complete_sameBlock _) (prepareWith_preparedRange hs hlo hhi hblk hblk')⟩,
    fun _ => capacityEnough_of_preparedRange, fun _ _ => step_preparedRange⟩

end Sys2Proof.Machine
end

section
/-! PROOF. NOP (R210), Reader B's phase (R217), and the margin of the capacity (R223). -/

namespace Sys2Proof.Machine

/-! ## NOP (R210) -/

/-- Settles O29: a word with OP 0 whose other fields are clear is 0, so any other one fails check (2). -/
theorem nopOnlyCompletes : Obligations.NopOnlyCompletes := by
  refine ⟨fun _ => rfl, fun s e rest hr hturn he hop hne => ?_⟩
  obtain ⟨-, hreserved, -⟩ := illegalWordsAbort s e rest hr hturn he
  simp only [hop] at hreserved
  refine hreserved (by decide) fun ⟨hrsv, hv, hch⟩ => hne (BitVec.eq_of_toNat_eq ?_)
  have hv0 := hv (by decide)
  have hch0 := hch (by decide)
  simp only [BitVec.toNat_ofNat]
  omega

/-! ## Reader B (R217) -/

/-- A sum that is positive is rounded to the nearest magnitude. -/
theorem fadd_of_pos {a b : Word} {n : Nat} (ha : isFinite a = true) (hb : isFinite b = true) (hn : 0 < n)
    (h : units a + units b = n) : fadd a b = w32 (rneMag n 1) := by
  simp only [fadd, isNaN_eq_false_of_finite ha, isNaN_eq_false_of_finite hb, isInf_eq_false_of_finite ha,
    isInf_eq_false_of_finite hb, Bool.or_self, Bool.false_eq_true, if_false, h, Int.natAbs_natCast]
  rw [if_neg (by omega), show decide ((n : Int) < 0) = false by simp, rne32, fpack_false]

/-- A phase is finite, and its units are below those of 1. -/
theorem unitPhase_units {p : Word} (hp : unitPhase p) : isFinite p = true ∧ 0 ≤ units p ∧ units p < 2 ^ 149 := by
  have hw : p = w32 p.toNat := (w32_toNat p).symm
  have hlt := magUnits_strictMono hp
  rw [magUnits_one] at hlt
  rw [unitPhase] at hp
  rw [hw, units_w32 (by omega), isFinite_iff, ← fpack_false, fmag_fpack _ (by omega)]
  omega

/-- Below 1.5 a number is at most 2^125 units from a magnitude. -/
theorem exists_magUnits_near {n : Nat} (h : n < 2 ^ 149 + 2 ^ 148) : ∃ m, |(magUnits m : Int) - n| ≤ 2 ^ 125 := by
  obtain ⟨m, hm⟩ := exists_magUnits_eq_mul_pow 126 ((n + 2 ^ 125) / 2 ^ 126) (by omega)
  refine ⟨m, abs_le.2 ?_⟩
  omega

theorem units_half : units f32Half = 2 ^ 148 := by decide +kernel

/-- Half a cycle on from a phase, before the wrap, is within 2^125 units of the exact sum. -/
theorem fadd_half {p : Word} (hp : unitPhase p) :
    isFinite (fadd p f32Half) = true ∧ 0 ≤ units (fadd p f32Half) ∧
      |units (fadd p f32Half) - (units p + 2 ^ 148)| ≤ 2 ^ 125 := by
  obtain ⟨hfin, h0, hlt⟩ := unitPhase_units hp
  obtain ⟨n, hn⟩ := Int.eq_ofNat_of_zero_le (show 0 ≤ units p + 2 ^ 148 by omega)
  obtain ⟨m, hm⟩ := exists_magUnits_near (n := n) (by omega)
  have hle : rneMag n 1 ≤ 0x3FC00000 := by
    refine rneMag_le_of_le_mul Nat.one_pos (by norm_num) ?_
    rw [show magUnits 0x3FC00000 = 2 ^ 149 + 2 ^ 148 by decide +kernel]
    omega
  have hnear : |(magUnits (rneMag n 1) : Int) - n| ≤ |(magUnits m : Int) - n| := by
    rcases eq_or_ne m (rneMag n 1) with rfl | hne
    · exact le_rfl
    · have := rneMag_nearest Nat.one_pos (n := n) (by omega) hne
      simp only [Nat.cast_one, mul_one] at this
      exact this.elim le_of_lt fun h => h.1.le
  rw [fadd_of_pos hfin (by decide) (by omega : 0 < n) (by rw [units_half]; exact hn), units_w32 (by omega), isFinite_iff,
    ← fpack_false, fmag_fpack _ (by omega), hn]
  exact ⟨by omega, by omega, hnear.trans hm⟩

/-- Reader B's phase is in [0, 1) (R217). -/
theorem phaseB_unitPhase {p : Word} (hp : unitPhase p) : unitPhase (phaseB p) := mod1_unitPhase (fadd_half hp).1

/-- Settles O13: only the sum is rounded; the wrap takes a whole number off it. -/
theorem readerBHalfCycle : Obligations.ReaderBHalfCycle := by
  intro p hp
  obtain ⟨hfin, h0, hnear⟩ := fadd_half hp
  have hwrap : units (phaseB p) = units (fadd p f32Half) % 2 ^ 149 := units_mod1 hfin h0
  refine ⟨phaseB_unitPhase hp, ⟨units (fadd p f32Half) / 2 ^ 149, ?_⟩, fun hlo hmul => ?_⟩
  · rwa [hwrap, mul_comm, Int.emod_add_mul_ediv]
  · obtain ⟨hpfin, -, hlt⟩ := unitPhase_units hp
    obtain ⟨m, hm⟩ := exists_magUnits_eq_mul_pow 126 ((units p + 2 ^ 148) / 2 ^ 126).toNat (by omega)
    have hsum : units p + units f32Half = magUnits m := by rw [units_half, hm]; push_cast; omega
    have hmlt : m < 0x7F800000 := magUnits_strictMono.lt_iff_lt.1 (by
      rw [show magUnits 0x7F800000 = 2 ^ 277 by decide +kernel]; omega)
    rw [hwrap, (fadd_exact hpfin (by decide) hmlt hsum).2, ← hsum, units_half]
    omega

/-! ## The capacity check (R212, R223) -/

/-- Settles O31: at most 0.3 of the rate, to the nearest, leaves 3200 of 8000 and more of more. -/
theorem capacityCheckNeverFails : Obligations.CapacityCheckNeverFails := by
  intro sr hlo hhi
  have hwin := windowSamples_le (m := Config.winMax) (sr := sr) (by decide +kernel) hhi
  refine ⟨capacityFor_eq hhi, ?_⟩
  change 2 * windowSamples Config.winMax sr + 3200 ≤ sr
  omega

end Sys2Proof.Machine
end

section
/-! PROOF. PREPARE, SET_TRANSPO and SET_WINDOW (R211 to R215, R224): what the oscillators hold after the loops of R211 and R212,
and that these commands change nothing their rules do not name. -/

namespace Sys2Proof.Machine

/-! ## The oscillators after R211 and R212 -/

/-- Changing oscillator (v, ch) by `g` changes no other. -/
theorem osc_setOsc_map (s : State) {v ch : Nat} (hv : v < 4) (hch : ch < 8) (g : Osc → Osc) {u c : Nat} (hc : c < 8) :
    (s.setOsc v ch (g (s.osc v ch))).osc u c = if u = v ∧ c = ch then g (s.osc u c) else s.osc u c := by
  rw [State.osc_setOsc s hv hch _ hc]
  split_ifs with h
  · rw [h.1, h.2]
  · rfl

/-- A loop over the channels that changes oscillator (v, k) by `g` in round k changes those of voice v on the first `n` channels.
-/
theorem osc_loop_channels {v n : Nat} (hv : v < 4) (hn : n ≤ 8) (g : Osc → Osc) (s : State) (u : Nat) {c : Nat} (hc : c < 8) :
    (loop n (fun k t => t.setOsc v k (g (t.osc v k))) s).osc u c = if u = v ∧ c < n then g (s.osc u c) else s.osc u c := by
  refine loop_induct (fun k (t : State) => t.osc u c = if u = v ∧ c < k then g (s.osc u c) else s.osc u c) (by simp)
    fun k t hk ht => ?_
  rw [osc_setOsc_map t hv (by omega) g hc, ht]
  by_cases h : u = v ∧ c = k
  · obtain ⟨rfl, rfl⟩ := h
    simp
  · rw [if_neg h]
    exact if_congr (by omega) rfl rfl

/-- A loop over the voices that changes the oscillators of voice k on the first `m` channels in round k, `I` being what the rounds
rest on. -/
theorem osc_loop_voices {m n : Nat} {body : Nat → State → State} {g : Nat → Osc → Osc} (I : State → Prop) {s : State}
    (h0 : I s) (hI : ∀ k t, k < n → I t → I (body k t))
    (hbody : ∀ k t, k < n → I t → ∀ u c, c < 8 →
      (body k t).osc u c = if u = k ∧ c < m then g k (t.osc u c) else t.osc u c)
    (u : Nat) {c : Nat} (hc : c < 8) :
    (loop n body s).osc u c = if u < n ∧ c < m then g u (s.osc u c) else s.osc u c := by
  refine (loop_induct (fun k (t : State) => I t ∧ t.osc u c = if u < k ∧ c < m then g u (s.osc u c) else s.osc u c)
    ⟨h0, by simp⟩ fun k t hk ht => ⟨hI k t hk ht.1, ?_⟩).2
  rw [hbody k t hk ht.1 u c hc, ht.2]
  by_cases h : u = k
  · subst h
    by_cases hm : c < m <;> simp [hm]
  · rw [if_neg fun hk => h hk.1]
    exact if_congr (by omega) rfl rfl

/-- VoiceFreqUpdate(v) recomputes the frequency of the oscillators of voice v on the channels there are (R211). -/
theorem voiceFreqUpdate_osc (s : State) {v : Nat} (hv : v < 4) (u : Nat) {c : Nat} (hc : c < 8) :
    (s.voiceFreqUpdate v).osc u c =
      if u = v ∧ c < s.params.nch then
        { s.osc u c with freq := transpoToFreq s.params.expFn (s.voice v).transpo s.winMs }
      else s.osc u c :=
  osc_loop_channels hv s.params.nch_range.2 (fun o => { o with freq := _ }) _ u hc

/-- The frequency update of every voice recomputes that of every oscillator there is (R212, R215). -/
theorem allFreqUpdate_osc (s : State) (u : Nat) {c : Nat} (hc : c < 8) :
    s.allFreqUpdate.osc u c =
      if u < s.params.nvoice ∧ c < s.params.nch then
        { s.osc u c with freq := transpoToFreq s.params.expFn (s.voice u).transpo s.winMs }
      else s.osc u c := by
  refine osc_loop_voices
    (g := fun u o => { o with freq := transpoToFreq s.params.expFn (s.voice u).transpo s.winMs })
    (fun t => t.params = s.params ∧ t.winMs = s.winMs ∧ ∀ w, (t.voice w).transpo = (s.voice w).transpo)
    ⟨rfl, rfl, fun _ => rfl⟩ (fun k t hk ht => ?_) (fun k t hk ht u c hc => ?_) u hc
  · obtain ⟨hp, hw, htr⟩ := ht
    refine ⟨(voiceFreqUpdate_params k t).trans hp, (voiceFreqUpdate_winMs k t).trans hw, fun w => ?_⟩
    rw [voiceFreqUpdate_voice t (voice_lt_four hk), ← htr]
    split_ifs with h
    · rw [h]
    · rfl
  · obtain ⟨hp, hw, htr⟩ := ht
    rw [voiceFreqUpdate_osc t (voice_lt_four hk) u hc, hp, hw, htr]

/-- Zeroing the phases zeroes that of every oscillator there is (R212). -/
theorem zeroPhases_osc (s : State) (u : Nat) {c : Nat} (hc : c < 8) :
    s.zeroPhases.osc u c =
      if u < s.params.nvoice ∧ c < s.params.nch then { s.osc u c with phase := 0#32 } else s.osc u c := by
  refine osc_loop_voices (g := fun _ o => { o with phase := 0#32 }) (fun t => t.params = s.params) rfl (fun k t hk ht => ?_)
    (fun k t hk ht u c hc => ?_) u hc
  · exact loop_induct (fun _ (t : State) => t.params = s.params) ht fun _ _ _ h => h
  · rw [← ht]
    exact osc_loop_channels (voice_lt_four hk) t.params.nch_range.2 (fun o => { o with phase := 0#32 }) t u hc

/-! ## PREPARE (R212, R224) -/

section

variable (sr blk : Nat) (s : State)

theorem prepareWith_voice (u : Nat) :
    (s.prepareWith sr blk).voice u =
      if u < s.params.nvoice then { s.voice u with freq := transpoToFreq s.params.expFn (s.voice u).transpo s.winMs }
      else s.voice u := by
  refine (allFreqUpdate_voice _ u).trans ?_
  rw [State.zeroPhases_frame, State.ringClear_frame]
  rfl

theorem prepareWith_osc (u : Nat) {c : Nat} (hc : c < 8) :
    (s.prepareWith sr blk).osc u c =
      if u < s.params.nvoice ∧ c < s.params.nch then
        { s.osc u c with phase := 0#32, freq := transpoToFreq s.params.expFn (s.voice u).transpo s.winMs }
      else s.osc u c := by
  have hzero := zeroPhases_osc
    (State.ringClear (capacityFor sr) { s with sr := w32 sr, cap := w32 (capacityFor sr), blksz := w32 blk, wptr := 0#32 }) u hc
  refine (allFreqUpdate_osc _ u hc).trans ?_
  change (if _ then { State.osc (State.zeroPhases _) u c with freq := _ } else State.osc (State.zeroPhases _) u c) = _
  rw [hzero, State.zeroPhases_frame, State.ringClear_frame]
  split_ifs <;> rfl

theorem prepareWith_ringMem (c : Nat) :
    (s.prepareWith sr blk).ringMem c =
      if c < s.params.nch then (s.ringMem c).fillZero (capacityFor sr) else s.ringMem c := by
  refine Eq.trans ?_ (ringMem_ringClear (capacityFor sr)
    { s with sr := w32 sr, cap := w32 (capacityFor sr), blksz := w32 blk, wptr := 0#32 } c)
  unfold State.prepareWith
  simp only
  rw [State.allFreqUpdate_frame, State.zeroPhases_frame]
  rfl

end

/-- Settles O30: the command finishes with the effect, whose registers its frame gives and whose arrays its loops. -/
theorem prepareSetsUpEngine : Obligations.PrepareSetsUpEngine := by
  intro s hm hlo hhi hblk hblk' freq
  have hframe := State.prepareWith_frame s.operand0.toNat s.operand1.toNat s
  have hring := prepareWith_ringMem s.operand0.toNat s.operand1.toNat s
  rw [capacityFor_eq hhi, w32_toNat, w32_toNat] at hframe
  refine ⟨_, exec_prepare hlo hhi hblk hblk', congrArg State.sr hframe, congrArg State.cap hframe, congrArg State.blksz hframe,
    congrArg State.wptr hframe, congrArg State.blkcnt hframe, congrArg State.prepared hframe, congrArg State.winSamp hframe,
    prepareWith_voice _ _ s, fun v ch hch => prepareWith_osc _ _ s v hch, fun ch i hch => ?_, ?_⟩
  · refine (congrArg (Memory.read · i) (hring ch)).trans ?_
    by_cases hn : ch < s.params.nch
    · simp only [hn, if_true, true_and, Memory.read_fillZero (hm ch hch).1, capacityFor_eq hhi]
    · simp only [hn, if_false, false_and]
  · rw [hframe]; rfl

theorem voices_ext {s t : State} (h : ∀ v, s.voice v = t.voice v) : s.voices = t.voices :=
  Vector.ext fun i hi => by simpa [State.voice, Vector.getD, hi] using h i

theorem oscs_ext {s t : State} (h : ∀ v ch, ch < 8 → s.osc v ch = t.osc v ch) : s.oscs = t.oscs :=
  Vector.ext fun i hi => by
    have := h (i / 8) (i % 8) (Nat.mod_lt _ (by norm_num))
    rw [State.osc, State.osc, State.oscIndex, Nat.div_add_mod] at this
    simpa [Vector.getD, hi] using this

theorem ring_ext {s t : State} (h : ∀ ch, s.ringMem ch = t.ringMem ch) : s.ring = t.ring :=
  Vector.ext fun i hi => by simpa [State.ringMem, Vector.getD, hi] using h i

/-- Filling a memory that is filled leaves it as it is. -/
theorem fillZero_fillZero (m : Memory) (n : Nat) : (m.fillZero n).fillZero n = m.fillZero n := by
  have hfilled : n ≤ (m.fillZero n).filled := by
    unfold Memory.fillZero
    simp only
    split_ifs with h
    · exact h
    · exact Memory.le_absorb_filled n _
  have habove : ∀ c ∈ (m.fillZero n).cells, n ≤ c.1 := by
    unfold Memory.fillZero
    simp only
    intro c hc
    split_ifs at hc
    · simpa using (List.mem_filter.1 hc).2
    · simpa using (List.mem_filter.1 (Memory.absorb_cells_mem hc)).2
  generalize m.fillZero n = f at *
  have hcells : f.cells.filter (fun c => decide (n ≤ c.1)) = f.cells :=
    List.filter_eq_self.2 fun c hc => decide_eq_true (habove c hc)
  rw [Memory.fillZero, if_pos hfilled, hcells]

/-- PREPARE leaves the arrays that it has left once (R224). -/
theorem prepareWith_arrays_again {sr blk : Nat} {s t : State} (hp : t.params = s.params) (hw : t.winMs = s.winMs)
    (hv : t.voices = (s.prepareWith sr blk).voices) (ho : t.oscs = (s.prepareWith sr blk).oscs)
    (hr : t.ring = (s.prepareWith sr blk).ring) :
    (t.prepareWith sr blk).voices = (s.prepareWith sr blk).voices ∧
      (t.prepareWith sr blk).oscs = (s.prepareWith sr blk).oscs ∧ (t.prepareWith sr blk).ring = (s.prepareWith sr blk).ring := by
  have hvoice : ∀ v, t.voice v = (s.prepareWith sr blk).voice v := fun v => by rw [State.voice, hv, State.voice]
  have hosc : ∀ v ch, t.osc v ch = (s.prepareWith sr blk).osc v ch := fun v ch => by rw [State.osc, ho, State.osc]
  have hring : ∀ ch, t.ringMem ch = (s.prepareWith sr blk).ringMem ch := fun ch => by rw [State.ringMem, hr, State.ringMem]
  refine ⟨voices_ext fun v => ?_, oscs_ext fun v ch hch => ?_, ring_ext fun ch => ?_⟩
  · rw [prepareWith_voice, hp, hw, hvoice, prepareWith_voice]
    split_ifs <;> rfl
  · rw [prepareWith_osc _ _ t v hch, hp, hw, hvoice, hosc, prepareWith_osc _ _ s v hch, prepareWith_voice]
    split_ifs <;> rfl
  · rw [prepareWith_ringMem, hp, hring, prepareWith_ringMem]
    split_ifs
    · exact fillZero_fillZero _ _
    · rfl

/-- A PREPARE with an operand out of its range only aborts (R212). -/
theorem exec_prepare_of_illegal {s : State} (h : ¬ (Config.srMin ≤ s.operand0.toNat ∧ s.operand0.toNat ≤ Config.srMax ∧
    1 ≤ s.operand1.toNat ∧ s.operand1.toNat ≤ Config.blockMax)) : exec .prepare s = raise .prepare .badArgument s := by
  by_cases hsr : s.operand0.toNat < Config.srMin ∨ Config.srMax < s.operand0.toNat
  · exact if_pos hsr
  · have hblk : s.operand1.toNat < 1 ∨ Config.blockMax < s.operand1.toNat := by omega
    exact (if_neg hsr).trans (if_pos hblk)

theorem errCodeOf_errWord (c : ErrCode) (src : ErrSource) : errCodeOf (errWord c src) = errNumber c := by
  have := errNumber_lt c
  simp only [errCodeOf, errWord, BitVec.toNat_ofNat]
  omega

theorem errNumber_ne_zero (c : ErrCode) : errNumber c ≠ 0 := by cases c <;> decide

/-- Once an error is recorded ERRINFO holds one (R25). -/
theorem errCodeOf_recordError (c : ErrCode) (src : ErrSource) (s : State) : errCodeOf (s.recordError c src).errinfo ≠ 0 := by
  rw [State.recordError_errinfo]
  split_ifs with h
  · rw [errCodeOf_errWord]; exact errNumber_ne_zero c
  · exact h

/-- The second of two like aborts changes nothing (R25, R253). -/
theorem abort_abort (c : ErrCode) (src : ErrSource) (s : State) (e : Option Entry) :
    State.abort c src { s.abort c src with inflight := e } = s.abort c src := by
  have hcode : ¬ errCodeOf ({ s.abort c src with inflight := e } : State).errinfo = 0 := errCodeOf_recordError c src s
  have hsticky : (s.abort c src).sticky ||| errBit c ||| cmdDoneBit = (s.abort c src).sticky := by
    rw [State.abort_eq, BitVec.or_assoc, BitVec.or_assoc s.sticky, BitVec.or_assoc, BitVec.or_self]
  rw [State.abort_eq, if_neg hcode]
  simp only [hsticky]
  rfl

/-- A PREPARE after itself leaves the state as it is (R224). -/
theorem prepareWith_again (sr blk : Nat) (s : State) (e : Option Entry) :
    State.complete (State.prepareWith sr blk { (s.prepareWith sr blk).complete with inflight := e }) =
      (s.prepareWith sr blk).complete := by
  have hframe := State.prepareWith_frame sr blk s
  obtain ⟨hv, ho, hr⟩ := prepareWith_arrays_again (s := s) (t := { (s.prepareWith sr blk).complete with inflight := e })
    (congrArg State.params hframe :) (congrArg State.winMs hframe :) rfl rfl rfl
  rw [State.prepareWith_frame, hv, ho, hr, hframe]
  simp only [State.complete, BitVec.or_assoc, BitVec.or_self]

/-- Settles O32: of illegal operands the second abort records nothing; with legal ones every register and every array is set to
what it is. -/
theorem prepareIdempotent : Obligations.PrepareIdempotent := by
  intro s t e he ht
  have h0 : s.operand0 = e.a0 := by rw [State.operand0, he]
  have h1 : s.operand1 = e.a1 := by rw [State.operand1, he]
  by_cases hlegal : Config.srMin ≤ e.a0.toNat ∧ e.a0.toNat ≤ Config.srMax ∧ 1 ≤ e.a1.toNat ∧ e.a1.toNat ≤ Config.blockMax
  · obtain ⟨hlo, hhi, hb, hb'⟩ := hlegal
    rw [exec_prepare (h0 ▸ hlo) (h0 ▸ hhi) (h1 ▸ hb) (h1 ▸ hb'), finish_eq_next, h0, h1] at ht
    rw [exec_prepare (s := { t with inflight := some e }) hlo hhi hb hb', finish_eq_next, ← ht]
    exact prepareWith_again _ _ s _
  · rw [exec_prepare_of_illegal (by rwa [h0, h1]), raise_eq_next] at ht
    rw [exec_prepare_of_illegal (s := { t with inflight := some e }) hlegal, raise_eq_next, ← ht]
    exact abort_abort _ _ s _

/-! ## SET_TRANSPO and SET_WINDOW (R211, R214, R215) -/

/-- W_CLAMP is set exactly when clamping changed the operand (R124). -/
theorem noteClamp_sticky (x c : Word) (s : State) :
    (s.noteClamp x c).sticky = s.sticky ||| if c = x then 0#32 else clampBit := by
  unfold State.noteClamp
  split_ifs
  · simp
  · rfl

/-- The bounds of a transposition and of a window, in units. -/
theorem units_bounds :
    units Config.trMin = -12 * 2 ^ 149 ∧ units Config.trMax = 12 * 2 ^ 149 ∧ units Config.winMin = 5 * 2 ^ 149 ∧
      units Config.winMax = 300 * 2 ^ 149 := by decide +kernel

theorem exec_setTranspo {s : State} {v : Fin 16} (hv : v.val < s.params.nvoice) (hx : isNaN s.operand0 = false) :
    let c := clamp s.operand0 Config.trMin Config.trMax
    let t := s.noteClamp s.operand0 c
    exec (.setTranspo v) s = finish ((t.setVoice v { t.voice v with transpo := c }).voiceFreqUpdate v) := by
  have hwf : (Instr.setTranspo v).wellFormed s.params = true := by
    simp [Instr.wellFormed, Instr.voiceLegal, Instr.channelLegal, Instr.voice?, Instr.channel?, hv]
  exact (if_pos hwf).trans (if_neg (by simp [hx]))

theorem exec_setWindow {s : State} (hx : isNaN s.operand0 = false) :
    let c := clamp s.operand0 Config.winMin Config.winMax
    exec .setWindow s = finish { s.noteClamp s.operand0 c with winMs := c, winSamp := s.newWinSamp c }.allFreqUpdate :=
  if_neg (by simp [hx])

/-- Settles O33: the command is a write of one voice, then the update of its frequencies. -/
theorem setTranspoClamps : Obligations.SetTranspoClamps := by
  intro s v hv hx c f
  obtain ⟨hlo, hhi, -, -⟩ := units_bounds
  have hexec := exec_setTranspo hv hx
  have hc : clamp s.operand0 Config.trMin Config.trMax = c := by unfold clamp; rw [hlo, hhi]; rfl
  rw [hc] at hexec
  simp only at hexec
  have hv4 : v.val < 4 := voice_lt_four hv
  refine ⟨_, hexec, ?_, fun u hu => ?_, fun u ch hch => ?_, ?_, ?_⟩
  · refine (voiceFreqUpdate_voice _ hv4 v).trans ?_
    rw [if_pos rfl, State.voice_setVoice _ hv4, if_pos rfl, State.noteClamp_frame]
    rfl
  · refine (voiceFreqUpdate_voice _ hv4 u).trans ?_
    rw [if_neg hu, State.voice_setVoice _ hv4, if_neg hu, State.noteClamp_frame]
    rfl
  · refine (voiceFreqUpdate_osc _ hv4 u hch).trans ?_
    rw [State.voice_setVoice _ hv4, if_pos rfl, State.noteClamp_frame]
    rfl
  · rw [State.voiceFreqUpdate_frame]
    exact congrArg (· ||| cmdDoneBit) (noteClamp_sticky s.operand0 c s)
  · rw [State.voiceFreqUpdate_frame, State.noteClamp_frame]
    rfl

/-- Settles O34: the command is a write of the window, then the update of every frequency. -/
theorem setWindowClamps : Obligations.SetWindowClamps := by
  intro s hx c f
  obtain ⟨-, -, hlo, hhi⟩ := units_bounds
  have hexec := exec_setWindow hx
  have hc : clamp s.operand0 Config.winMin Config.winMax = c := by unfold clamp; rw [hlo, hhi]; rfl
  rw [hc] at hexec
  simp only at hexec
  refine ⟨_, hexec, ?_, ?_, fun v => ?_, fun v ch hch => ?_, ?_, ?_⟩
  · rw [State.allFreqUpdate_frame]; rfl
  · rw [State.allFreqUpdate_frame]; rfl
  · refine (allFreqUpdate_voice _ v).trans ?_
    rw [State.noteClamp_frame]
    rfl
  · refine (allFreqUpdate_osc _ v hch).trans ?_
    rw [State.noteClamp_frame]
    rfl
  · rw [State.allFreqUpdate_frame]
    exact congrArg (· ||| cmdDoneBit) (noteClamp_sticky s.operand0 c s)
  · rw [State.allFreqUpdate_frame, State.noteClamp_frame]
    rfl

end Sys2Proof.Machine
end

section
/-! PROOF. PROCESS (R217 to R222): the reads that succeed, the samples and the phases they are taken at, and the outputs written.
One induction over the loops of R220 carries all of it. -/

namespace Sys2Proof.Machine

/-! ## Reads that succeed (R187, R188) -/

theorem eq_agedSample_of_ringRead {s : State} {ch : Nat} {a : Int} {x : Word} (h : s.ringRead ch (s.ageCell a) = .ok x) :
    x = s.agedSample ch a := by
  unfold State.ringRead at h
  rw [agedSample_eq]
  cases hx : (s.ringMem ch).read (s.ageCell a) with
  | none => rw [hx] at h; cases h
  | some y => rw [hx] at h; cases h; rfl

theorem eq_readAt_of_interpolate {s : State} {ch : Nat} {n : Int} {d x : Word} (hr : s.tapsInRange n d)
    (h : s.interpolate ch n d = .ok x) : x = s.readAt ch n d := by
  obtain ⟨xNew, hnew, h⟩ := andThen_eq_ok.1 h
  rw [State.readAt, if_pos hr, ← show xNew = s.agedSample ch (s.tapAge n d) from eq_agedSample_of_ringRead hnew]
  cases hz : isZero (splitFrac d) with
  | true =>
    rw [hz, if_pos rfl, Except.ok.injEq] at h
    simp only [if_true, h]
  | false =>
    rw [hz, if_neg Bool.false_ne_true] at h
    obtain ⟨xOld, hold, h⟩ := andThen_eq_ok.1 h
    rw [State.olderAge_of_fraction hz] at hold
    rw [Except.ok.injEq] at h
    simp only [Bool.false_eq_true, if_false, ← eq_agedSample_of_ringRead hold, h]

/-- A read that succeeds has the value R187 and R188 give it; it records error 7 where it is out of range, and nothing else. -/
theorem ringReadInterp_value {src : ErrSource} {ch : Nat} {n : Int} {d : Word} {s : State} {r : State × Word}
    (h : s.ringReadInterp src ch n d = .ok r) :
    r.2 = s.readAt ch n d ∧
      (s.tapsInRange n d ∧ r.1 = s ∨ ¬ s.tapsInRange n d ∧ r.1 = s.recordError .readRange src) := by
  rcases State.ringReadInterp_cases h with ⟨hr, h1, h2⟩ | ⟨hr, rfl⟩
  · have hr' := State.readInRange_iff.1 hr
    exact ⟨eq_readAt_of_interpolate hr' h2, .inl ⟨hr', h1⟩⟩
  · have hr' : ¬ s.tapsInRange n d := fun h => by rw [State.readInRange_iff.2 h] at hr; cases hr
    exact ⟨by rw [State.readAt, if_neg hr'], .inr ⟨hr', rfl⟩⟩

/-! ## What the reads record (R254) -/

/-- `x` has STATUS and ERRINFO as `s` has after recording error 7, if `p` holds, and as `s` otherwise. -/
structure RangeNoted (src : ErrSource) (s : State) (p : Prop) (x : State) : Prop where
  noted : p → x.sticky = (s.recordError .readRange src).sticky ∧ x.errinfo = (s.recordError .readRange src).errinfo
  quiet : ¬ p → x.sticky = s.sticky ∧ x.errinfo = s.errinfo

theorem RangeNoted.record {src : ErrSource} {s x : State} {p q : Prop} (h : RangeNoted src s p x) (hq : q) :
    RangeNoted src s (p ∨ q) (x.recordError .readRange src) := by
  refine ⟨fun _ => ?_, fun hpq => absurd (.inr hq) hpq⟩
  rw [State.recordError_sticky, State.recordError_errinfo]
  by_cases hp : p
  · obtain ⟨hst, herr⟩ := h.noted hp
    rw [hst, herr, if_neg (errCodeOf_recordError _ src s), State.recordError_sticky, BitVec.or_assoc, BitVec.or_self]
    exact ⟨rfl, rfl⟩
  · obtain ⟨hst, herr⟩ := h.quiet hp
    rw [hst, herr]
    exact ⟨rfl, rfl⟩

theorem RangeNoted.skip {src : ErrSource} {s x : State} {p q : Prop} (h : RangeNoted src s p x) (hq : ¬ q) :
    RangeNoted src s (p ∨ q) x := by
  rwa [or_iff_left hq]

/-! ## In the middle of a block (R219, R220) -/

/-- `x` is what `u` has become when voice `v` is to be added to sample `n` of channel `ch`, `p` saying whether a read was out of
range up to there. -/
structure Running (src : ErrSource) (u : State) (p : Prop) (ch n v : Nat) (x : State) : Prop where
  midway : Midway u ch n v x
  noted : RangeNoted src u p x
  idle : ∀ v' c', u.params.nvoice ≤ v' → c' < 8 → x.osc v' c' = u.osc v' c'

/-- One of the two reads of voice `v` for sample `n` of channel `ch` is out of range (R219). -/
def State.tapOutOfRange (u : State) (ch n v : Nat) : Prop :=
  ¬ u.tapsInRange ((n : Int) - u.winSamp.toNat) (u.delayA v ch n) ∨
    ¬ u.tapsInRange ((n : Int) - u.winSamp.toNat) (u.delayB v ch n)

namespace Running

variable {src : ErrSource} {u x : State} {p : Prop} {ch n v : Nat}

theorem start (src : ErrSource) (u : State) : Running src u False 0 0 0 u :=
  ⟨.start u, ⟨False.elim, fun _ => ⟨rfl, rfl⟩⟩, fun _ _ _ _ => rfl⟩

theorem advance (h : Running src u p ch n v x) (hv : v < u.params.nvoice) (hch : ch < 8) :
    Running src u p ch n (v + 1) (x.oscAdvance v ch) := by
  refine ⟨h.midway.advance hv hch, ⟨h.noted.noted, h.noted.quiet⟩, fun v' c' hv' hc' => ?_⟩
  rw [State.oscAdvance, State.osc_setOsc _ (voice_lt_four hv) hch _ hc', if_neg (by omega)]
  exact h.idle v' c' hv' hc'

/-- A read in the middle of a block is the one at its start. -/
theorem read (h : Running src u p ch n v x) {c : Nat} {i : Int} {d : Word} {r : State × Word}
    (hr : x.ringReadInterp src c i d = .ok r) :
    Running src u (p ∨ ¬ u.tapsInRange i d) ch n v r.1 ∧ r.2 = u.readAt c i d := by
  obtain ⟨hvalue, hcase⟩ := ringReadInterp_value hr
  obtain ⟨hmid, hnoted, hidle⟩ := h
  obtain ⟨os, m, e, rfl⟩ := hmid.frame
  refine ⟨?_, hvalue⟩
  rcases hcase with ⟨hin, h1⟩ | ⟨hout, h1⟩
  · rw [h1]
    exact ⟨hmid, hnoted.skip (not_not.2 hin), hidle⟩
  · rw [h1]
    exact ⟨hmid.note _ _, hnoted.record hout, hidle⟩

theorem voiceTap (h : Running src u p ch n v x) (hv : v < u.params.nvoice) (hch : ch < u.params.nch) {r : State × Word}
    (hr : x.voiceTap src v ch n = .ok r) :
    Running src u (p ∨ u.tapOutOfRange ch n v) ch n (v + 1) r.1 ∧ r.2 = u.tapSum v ch n := by
  have hphase := h.midway.phase hv (channel_lt_eight hch)
  have hadv := h.advance hv (channel_lt_eight hch)
  obtain ⟨os, m, e, rfl⟩ := h.midway.frame
  unfold State.voiceTap at hr
  rw [hphase] at hr
  obtain ⟨ra, ha, hr⟩ := andThen_eq_ok.1 hr
  obtain ⟨rb, hb, hr⟩ := andThen_eq_ok.1 hr
  cases hr
  obtain ⟨hra, hva⟩ := hadv.read ha
  obtain ⟨hrb, hvb⟩ := hra.read hb
  rw [or_assoc] at hrb
  refine ⟨hrb, ?_⟩
  simp only [hva, hvb]
  rfl

end Running

/-- A loop that goes on from each round's state and adds its value: what the rounds do to the state and to the value, the whole
does; `bad k` is what round `k` adds to the condition the invariant carries. -/
theorem loopE_accumulates {α β : Type} {n : Nat} {f : Nat → State → Except Fault (State × β)} {g : α → β → α}
    {bad : Nat → Prop} (inv : Prop → Nat → State → Prop) (val : Nat → α) {p : Prop} {s : State} {t : State × α} (h0 : inv p 0 s)
    (hs : ∀ q k x r, k < n → inv q k x → f k x = .ok r → inv (q ∨ bad k) (k + 1) r.1 ∧ g (val k) r.2 = val (k + 1))
    (h : loopE n (fun k x => andThen (f k x.1) fun r => .ok (r.1, g x.2 r.2)) (s, val 0) = .ok t) :
    inv (p ∨ ∃ k, k < n ∧ bad k) n t.1 ∧ t.2 = val n := by
  refine loopE_induct (fun m x => inv (p ∨ ∃ k, k < m ∧ bad k) m x.1 ∧ x.2 = val m) ⟨by simpa using h0, rfl⟩
    (fun k x y hk hx hy => ?_) h
  obtain ⟨r, hr, hy⟩ := andThen_eq_ok.1 hy
  cases hy
  obtain ⟨hinv, hval⟩ := hs _ k x.1 r hk hx.1 hr
  rw [Nat.exists_lt_succ_right, ← or_assoc]
  exact ⟨hinv, by rw [hx.2]; exact hval⟩

/-- The output of a channel before the gain (R220, R221). -/
def State.channelOut (u : State) (ch : Nat) : List Word := (List.range u.blksz.toNat).map fun n => u.mixAt ch n u.params.nvoice

/-- The outputs of every channel before the gain. -/
def State.blockOut (u : State) : List (List Word) := (List.range u.params.nch).map u.channelOut

theorem map_range_succ {α : Type} (f : Nat → α) (k : Nat) : (List.range k).map f ++ [f k] = (List.range (k + 1)).map f := by
  rw [List.range_succ, List.map_append, List.map_singleton]

namespace Running

variable {src : ErrSource} {u x : State} {p : Prop} {ch n : Nat}

theorem outSample (h : Running src u p ch n 0 x) (hch : ch < u.params.nch) {r : State × Word}
    (hr : x.outSample src ch n = .ok r) :
    Running src u (p ∨ ∃ v, v < u.params.nvoice ∧ u.tapOutOfRange ch n v) ch (n + 1) 0 r.1 ∧
      r.2 = u.mixAt ch n u.params.nvoice := by
  rw [State.outSample, h.midway.params] at hr
  obtain ⟨hrun, hval⟩ := loopE_accumulates (g := fadd) (f := fun v x => x.voiceTap src v ch n)
    (fun p v x => Running src u p ch n v x) (u.mixAt ch n) h
    (fun q v y r hv hy hr => by
      obtain ⟨hy', hval⟩ := hy.voiceTap hv hch hr
      exact ⟨hy', by rw [hval]; rfl⟩) hr
  exact ⟨⟨hrun.midway.nextSample, hrun.noted, hrun.idle⟩, hval⟩

theorem outChannel (h : Running src u p ch 0 0 x) (hch : ch < u.params.nch) {r : State × List Word}
    (hr : x.outChannel src ch = .ok r) :
    Running src u (p ∨ ∃ n, n < u.blksz.toNat ∧ ∃ v, v < u.params.nvoice ∧ u.tapOutOfRange ch n v) (ch + 1) 0 0 r.1 ∧
      r.2 = u.channelOut ch := by
  rw [State.outChannel, h.midway.blksz] at hr
  obtain ⟨hrun, hval⟩ := loopE_accumulates (g := fun l x => l ++ [x]) (f := fun n x => x.outSample src ch n)
    (fun p n x => Running src u p ch n 0 x) (fun k => (List.range k).map fun n => u.mixAt ch n u.params.nvoice) h
    (fun q n y r _ hy hr => by
      obtain ⟨hy', hval⟩ := hy.outSample hch hr
      exact ⟨hy', by rw [hval, map_range_succ]⟩) hr
  exact ⟨⟨hrun.midway.nextChannel, hrun.noted, hrun.idle⟩, hval⟩

theorem outBlock {r : State × List (List Word)} (hr : u.outBlock src = .ok r) :
    Running src u u.processReadsOutOfRange u.params.nch 0 0 r.1 ∧ r.2 = u.blockOut := by
  have hswap : u.processReadsOutOfRange ↔ False ∨ ∃ ch, ch < u.params.nch ∧ ∃ n, n < u.blksz.toNat ∧
      ∃ v, v < u.params.nvoice ∧ u.tapOutOfRange ch n v := by
    rw [false_or]
    constructor
    · rintro ⟨ch, hch, v, hv, n, hn, h⟩; exact ⟨ch, hch, n, hn, v, hv, h⟩
    · rintro ⟨ch, hch, n, hn, v, hv, h⟩; exact ⟨ch, hch, v, hv, n, hn, h⟩
  rw [hswap]
  exact loopE_accumulates (g := fun l x => l ++ [x]) (f := fun ch x => x.outChannel src ch)
    (fun p ch x => Running src u p ch 0 0 x) (fun k => (List.range k).map u.channelOut) (start src u)
    (fun q ch y r hch hy hr => by
      obtain ⟨hy', hval⟩ := hy.outChannel hch hr
      exact ⟨hy', by rw [hval, map_range_succ]⟩) hr

end Running

/-! ## The outputs written (R220, R222) -/

/-- Sample `n` of a channel's output, times OUT_GAIN (R222). -/
def gained (out : List Word) (n : Nat) : Option Word := some (fmul (out.getD n 0#32) Config.outGain)

/-- A block stored from cell 0 on, each sample in the cell of its number. -/
theorem BlockStored.read_id {m m' : Memory} {block : Nat → Option Word} {k : Nat} (h : BlockStored m block id k m') (n : Nat) :
    m'.read n = if n < k then block n else m.read n := by
  split_ifs with hn
  · exact h.stored n hn fun l hl _ => hl.ne'
  · exact h.kept n fun j hj => (lt_of_lt_of_le hj (not_lt.1 hn)).ne

/-- Writing a channel's output stores it from cell 0 on, and leaves the other channels. -/
theorem writeChannel_stored {s : State} {ch : Nat} (hch : ch < 8) (hwf : (s.ioMem ch).wf) (out : List Word) :
    BlockStored (s.ioMem ch) (gained out) id out.length ((s.writeChannel ch out).ioMem ch) ∧
      ∀ c, c ≠ ch → (s.writeChannel ch out).ioMem c = s.ioMem c := by
  refine loop_induct
    (fun k (t : State) => BlockStored (s.ioMem ch) (gained out) id k (t.ioMem ch) ∧ ∀ c, c ≠ ch → t.ioMem c = s.ioMem c)
    ⟨.start hwf, fun _ _ => rfl⟩ fun k t _ ht => ⟨?_, fun c hc => ?_⟩
  · rw [State.ioMem_ioWrite t hch, if_pos rfl]
    exact ht.1.next rfl
  · rw [State.ioMem_ioWrite t hch, if_neg hc, ht.2 c hc]

/-- The channels of `t` below `k` hold their outputs, the others what they do in `s`. -/
def outputsStored (s : State) (out : List (List Word)) (k : Nat) (t : State) : Prop :=
  ∀ c, if c < k then BlockStored (s.ioMem c) (gained (out.getD c [])) id (out.getD c []).length (t.ioMem c)
    else t.ioMem c = s.ioMem c

theorem writeBlock_stored {s : State} {out : List (List Word)} (hlen : out.length ≤ 8) (hwf : ∀ ch, ch < 8 → (s.ioMem ch).wf) :
    outputsStored s out out.length (s.writeBlock out) := by
  refine loop_induct (outputsStored s out) (fun c => by simp) fun k t hk ht c => ?_
  have hk8 : k < 8 := lt_of_lt_of_le hk hlen
  have htk : t.ioMem k = s.ioMem k := by simpa using ht k
  obtain ⟨hstored, hother⟩ := writeChannel_stored (s := t) hk8 (htk ▸ hwf k hk8) (out.getD k [])
  rcases eq_or_ne c k with rfl | hne
  · rw [if_pos (Nat.lt_succ_self c), ← htk]
    exact hstored
  · have hlt : c < k + 1 ↔ c < k := by omega
    simp only [hlt, hother c hne]
    exact ht c

theorem getD_map_range {α : Type} (f : Nat → α) {k n : Nat} (h : k < n) (d : α) : ((List.range n).map f).getD k d = f k := by
  simp [List.getD, h]

/-- The outputs written are the mixed samples times OUT_GAIN (R222). -/
theorem writeBlock_blockOut (u : State) {x : State} (hwf : ∀ ch, ch < 8 → (x.ioMem ch).wf) (ch n : Nat) :
    ((x.writeBlock u.blockOut).ioMem ch).read n =
      if ch < u.params.nch ∧ n < u.blksz.toNat then some (fmul (u.mixAt ch n u.params.nvoice) Config.outGain)
      else (x.ioMem ch).read n := by
  have hlen : u.blockOut.length = u.params.nch := by simp [State.blockOut]
  have hst := writeBlock_stored (hlen.trans_le u.params.nch_range.2) hwf ch
  by_cases hch : ch < u.params.nch
  · have hrow : u.blockOut.getD ch [] = u.channelOut ch := getD_map_range _ hch _
    have hrowlen : (u.channelOut ch).length = u.blksz.toNat := by simp [State.channelOut]
    rw [hlen, if_pos hch, hrow, hrowlen] at hst
    rw [hst.read_id n]
    by_cases hn : n < u.blksz.toNat
    · rw [if_pos hn, if_pos ⟨hch, hn⟩, gained, State.channelOut, getD_map_range _ hn]
    · rw [if_neg hn, if_neg fun h => hn h.2]
  · rw [hlen, if_neg hch] at hst
    rw [hst, if_neg fun h => hch h.1]

end Sys2Proof.Machine
end

section
/-! PROOF. What PROCESS completes with (R219 to R226): its outputs, phases and flags; no read out of range within the capacity
bound, silence from silence, and each channel on its own. -/

namespace Sys2Proof.Machine

/-! ## The effect of PROCESS (R220) -/

/-- What a PROCESS makes of `s`, `u` being `s` with the block written to the ring. -/
structure Processed (src : ErrSource) (s u w : State) : Prop where
  /-- The ring holds what `u` has in it. -/
  ring : w.ring = u.ring
  /-- The outputs of the block, and the cells beside it (R221, R222). -/
  io : s.memoryLegal → ∀ ch n, (w.ioMem ch).read n =
    if ch < s.params.nch ∧ n < s.blksz.toNat then some (fmul (u.mixAt ch n s.params.nvoice) Config.outGain)
    else (s.ioMem ch).read n
  /-- An oscillator there is ends BLKSZ steps on; a missing channel's stays. -/
  osc : ∀ v ch, v < s.params.nvoice → ch < 8 →
    w.osc v ch = { s.osc v ch with phase := s.phaseAt v ch (if ch < s.params.nch then s.blksz.toNat else 0) }
  /-- A missing voice's oscillators stay. -/
  idle : ∀ v ch, s.params.nvoice ≤ v → ch < 8 → w.osc v ch = s.osc v ch
  /-- A read out of range is recorded once (R25, R254). -/
  noted : s.processReadsOutOfRange → w.sticky = s.sticky ||| errBit .readRange ||| doneBit ∧
    w.errinfo = if errCodeOf s.errinfo = 0 then errWord .readRange src else s.errinfo
  /-- Without one DONE is all that is recorded. -/
  quiet : ¬ s.processReadsOutOfRange → w.sticky = s.sticky ||| doneBit ∧ w.errinfo = s.errinfo

theorem processBlock_processed {src : ErrSource} {s w : State} (h : s.processBlock src = .ok w) :
    ∃ u, s.ringWriteBlock = .ok u ∧ Processed src s u w := by
  obtain ⟨u, hu, h⟩ := andThen_eq_ok.1 h
  obtain ⟨r, hr, h⟩ := andThen_eq_ok.1 h
  cases h
  obtain ⟨hrun, hout⟩ := Running.outBlock hr
  obtain ⟨os, m, e, hr1⟩ := hrun.midway.frame
  obtain ⟨R, W, rfl⟩ : ∃ R W, u = { s with ring := R, wptr := W } := ⟨_, _, State.ringWriteBlock_frame hu⟩
  have hwrite := State.writeBlock_frame r.2 r.1
  refine ⟨_, hu, ?_, fun hm ch n => ?_, fun v ch hv hch => ?_, fun v ch hv hch => ?_, fun hbad => ?_, fun hgood => ?_⟩
  · exact (congrArg State.ring hwrite :).trans (congrArg State.ring hr1 :)
  · have hio : ∀ c, r.1.ioMem c = s.ioMem c := fun c => by rw [hr1]; rfl
    refine (congrArg (fun out => ((r.1.writeBlock out).ioMem ch).read n) hout).trans ?_
    rw [writeBlock_blockOut _ fun c hc => by rw [hio]; exact (hm c hc).2.2.1, hio]
  · refine (congrArg (State.osc · v ch) hwrite :).trans ((hrun.midway.osc v ch hv hch).trans ?_)
    have hsteps : stepsTaken s.blksz.toNat s.params.nch 0 0 v ch = if ch < s.params.nch then s.blksz.toNat else 0 := by
      simp [stepsTaken]
    exact congrArg (fun k => ({ s.osc v ch with phase := s.phaseAt v ch k } : Osc)) hsteps
  · exact (congrArg (State.osc · v ch) hwrite :).trans (hrun.idle v ch hv hch)
  · obtain ⟨hst, herr⟩ := hrun.noted.noted hbad
    exact ⟨(congrArg (State.sticky · ||| doneBit) hwrite :).trans (congrArg (· ||| doneBit) hst),
      (congrArg State.errinfo hwrite :).trans herr⟩
  · obtain ⟨hst, herr⟩ := hrun.noted.quiet hgood
    exact ⟨(congrArg (State.sticky · ||| doneBit) hwrite :).trans (congrArg (· ||| doneBit) hst),
      (congrArg State.errinfo hwrite :).trans herr⟩

/-- A PROCESS that goes on has its effect and completes. -/
theorem exec_process_processed {s t : State} (hp : s.prepared = true) (h : exec .process s = .next t) :
    ∃ u w, s.ringWriteBlock = .ok u ∧ s.processBlock (sourceOf (encode .process)) = .ok w ∧
      Processed (sourceOf (encode .process)) s u w ∧ w.complete = t := by
  rw [exec_process hp, finishE_eq_next] at h
  obtain ⟨w, hw, ht⟩ := h
  obtain ⟨u, hu, hproc⟩ := processBlock_processed hw
  exact ⟨u, w, hu, hw, hproc, ht⟩

/-- With no read out of range a PROCESS records DONE and CMDDONE only. -/
theorem Processed.completed_quiet {src : ErrSource} {s u w : State} (h : Processed src s u w) (hr : ¬ s.processReadsOutOfRange) :
    w.complete.sticky = s.sticky ||| 0x00000030#32 ∧ w.complete.errinfo = s.errinfo := by
  obtain ⟨hst, herr⟩ := h.quiet hr
  refine ⟨?_, herr⟩
  rw [State.complete_sticky, hst, BitVec.or_assoc]
  rfl

/-- Settles O36: the effect is the induction's. -/
theorem processComputesBlock : Obligations.ProcessComputesBlock := by
  intro s u t hm hp hu ht
  obtain ⟨u', w, hu', -, hproc, rfl⟩ := exec_process_processed hp ht
  obtain rfl : u = u' := by rw [hu] at hu'; cases hu'; rfl
  refine ⟨fun ch n hch hn => (hproc.io hm ch n).trans (if_pos ⟨hch, hn⟩), fun v ch hv hch => ?_, hproc.ring⟩
  refine (congrArg Osc.phase (hproc.osc v ch hv (channel_lt_eight hch))).trans ?_
  rw [if_pos hch]

/-! ## Where the block goes in the ring (R183) -/

/-- Of the samples below `k` none is stored at cell `i`, or one is the last to be. -/
theorem exists_last_at (cell : Nat → Nat) (k i : Nat) :
    (∀ j, j < k → cell j ≠ i) ∨ ∃ j, j < k ∧ cell j = i ∧ ∀ l, j < l → l < k → cell l ≠ cell j := by
  induction k with
  | zero => exact .inl fun _ hj => absurd hj (Nat.not_lt_zero _)
  | succ k ih =>
    by_cases hk : cell k = i
    · exact .inr ⟨k, Nat.lt_succ_self k, hk, fun l hl hl' => absurd hl' (by omega)⟩
    · rcases ih with hnone | ⟨j, hj, rfl, hlast⟩
      · exact .inl fun j hj => (Nat.lt_succ_iff_lt_or_eq.1 hj).elim (hnone j) fun e => e ▸ hk
      · exact .inr ⟨j, Nat.lt_succ_of_lt hj, rfl,
          fun l hl hl' => (Nat.lt_succ_iff_lt_or_eq.1 hl').elim (hlast l hl) fun e => e ▸ hk⟩

/-- What holds of a cell and of the samples of a block holds of the cell after the block is stored. -/
theorem BlockStored.of_forall {m m' : Memory} {block : Nat → Option Word} {cell : Nat → Nat} {k : Nat}
    (h : BlockStored m block cell k m') {P : Option Word → Prop} (hblock : ∀ j, j < k → P (block j)) {i : Nat}
    (hm : P (m.read i)) : P (m'.read i) := by
  rcases exists_last_at cell k i with hnone | ⟨j, hj, rfl, hlast⟩
  · rw [h.kept i hnone]; exact hm
  · rw [h.stored j hj hlast]; exact hblock j hj

/-- Where a cell reads alike, it does after like blocks are stored at like places. -/
theorem BlockStored.congr {m n m' n' : Memory} {block block' : Nat → Option Word} {cell : Nat → Nat} {k : Nat}
    (h : BlockStored m block cell k m') (h' : BlockStored n block' cell k n') (hblock : ∀ j, j < k → block j = block' j)
    {i : Nat} (hm : m.read i = n.read i) : m'.read i = n'.read i := by
  rcases exists_last_at cell k i with hnone | ⟨j, hj, rfl, hlast⟩
  · rw [h.kept i hnone, h'.kept i hnone, hm]
  · rw [h.stored j hj hlast, h'.stored j hj hlast, hblock j hj]

theorem ringWriteBlock_blockStored {s u : State} (hm : s.memoryLegal) (hu : s.ringWriteBlock = .ok u) {ch : Nat}
    (hch : ch < s.params.nch) :
    BlockStored (s.ringMem ch) (s.ioMem ch).read s.blockCell s.blksz.toNat (u.ringMem ch) := by
  simpa only [hch, if_true] using State.ringWriteBlock_stored hm hu ch (channel_lt_eight hch)

/-! ## The flags and the frame (R220, R254) -/

/-- With the block and the ring defined no read reaches an undefined cell. -/
theorem not_processReadsUndefined {s u : State} (hm : s.memoryLegal) (hcap : s.cap ≠ 0#32) (hb : s.blockDefined)
    (hr : s.ringDefined) (hu : s.ringWriteBlock = .ok u) : ¬ u.processReadsUndefined := by
  have hframe := State.ringWriteBlock_frame hu
  have hucap : u.cap = s.cap := (congrArg State.cap hframe :)
  have hparams : u.params = s.params := (congrArg State.params hframe :)
  have hdef : ∀ ch a, ch < s.params.nch → (u.ringMem ch).read (u.ageCell a) ≠ none := fun ch a hch hnone => by
    have hlt : u.ageCell a < s.cap.toNat := hucap ▸ State.ageCell_lt (hucap ▸ hcap) a
    have := (ringWriteBlock_blockStored hm hu hch).of_forall (P := fun x => x.isSome = true) (hb ch hch) (hr ch hch _ hlt)
    rw [hnone] at this
    cases this
  rintro ⟨ch, hch, v, -, n, -, hread⟩
  rw [hparams] at hch
  rcases hread with ⟨-, hnone | ⟨-, hnone⟩⟩ | ⟨-, hnone | ⟨-, hnone⟩⟩ <;> exact hdef ch _ hch hnone

/-- Settles O35: no read reaches an undefined cell, so the command completes with its effect. -/
theorem processCompletes : Obligations.ProcessCompletes := by
  intro s hm hp hcap hb hr
  obtain ⟨u, hu, -, hdone⟩ := undefinedCellsFault.2.2 s hp hcap hb
  obtain ⟨t, ht⟩ := hdone (not_processReadsUndefined hm hcap hb hr hu)
  obtain ⟨u', w, -, hw, hproc, rfl⟩ := exec_process_processed hp ht
  have hframe := State.processBlock_frame hw
  have hword : errWord .readRange (sourceOf (encode .process)) = 0x00000407#32 := by decide
  refine ⟨w.complete, ht, fun hbad => ?_, fun hgood => ?_, (congrArg State.blkcnt hframe).trans ?_, congrArg State.wptr hframe,
    fun ch n _ h => (hproc.io hm ch n).trans (if_neg (by omega)), fun v ch hch => ?_, fun v ch hch h => ?_, ?_⟩
  · obtain ⟨hst, herr⟩ := hproc.noted hbad
    rw [hword] at herr
    refine ⟨?_, herr⟩
    rw [State.complete_sticky, hst, BitVec.or_assoc, BitVec.or_assoc]
    rfl
  · exact hproc.completed_quiet hgood
  · exact BitVec.eq_of_toNat_eq (by simp)
  · rcases Nat.lt_or_ge v s.params.nvoice with hv | hv
    · have hosc : w.complete.osc v ch = _ := hproc.osc v ch hv hch
      rw [hosc]
    · have hosc : w.complete.osc v ch = _ := hproc.idle v ch hv hch
      rw [hosc]
  · rcases Nat.lt_or_ge v s.params.nvoice with hv | hv
    · refine (hproc.osc v ch hv hch).trans ?_
      rw [if_neg (by omega)]
      rfl
    · exact hproc.idle v ch hv hch
  · rw [hframe]; rfl

/-! ## No read out of range within the capacity bound (R223) -/

/-- Once PREPARED every phase of a PROCESS is in [0, 1) (R42, R151). -/
theorem phaseAt_unitPhase {s : State} (hs : s.engineLegal) (hp : s.prepared = true) {v ch : Nat} (hv : v < 4) (hch : ch < 8)
    (n : Nat) : unitPhase (s.phaseAt v ch n) := by
  obtain ⟨hrate, -, hosc⟩ := hs
  obtain ⟨hlo, hhi⟩ := hrate.1 hp
  obtain ⟨hphase, hfreq⟩ := hosc v ch hv hch
  induction n with
  | zero => exact hphase
  | succ n ih => exact phaseStep_unitPhase ih hfreq hlo hhi

/-- A product of values that are not signed. -/
theorem fmul_of_unsigned {a b : Word} (ha : isFinite a = true) (hb : isFinite b = true) (hsa : fsign a = false)
    (hsb : fsign b = false) : fmul a b = w32 (rneMag (magUnits (fmag a) * magUnits (fmag b)) (2 ^ 149)) := by
  simp only [fmul, isNaN_eq_false_of_finite ha, isNaN_eq_false_of_finite hb, isInf_eq_false_of_finite ha,
    isInf_eq_false_of_finite hb, hsa, hsb, Bool.or_self, Bool.false_eq_true, if_false, bne_self_eq_false]
  rw [rne32, fpack_false]

theorem fsign_of_unitPhase {p : Word} (hp : unitPhase p) : fsign p = false := by
  rw [unitPhase] at hp
  exact decide_eq_false (by omega)

/-- The delay at a phase in [0, 1) is at most the window (R218). -/
theorem delay_bounds {p : Word} {w : Nat} (hp : unitPhase p) (hw : w ≤ 2 ^ 24) :
    isFinite (fmul p (i2f w)) = true ∧ 0 ≤ units (fmul p (i2f w)) ∧ units (fmul p (i2f w)) ≤ (w : Int) * 2 ^ 149 := by
  obtain ⟨hfin, -, -⟩ := unitPhase_units hp
  obtain ⟨hwfin, hwmag⟩ := i2f_exact hw
  have hwlt := isFinite_iff.1 hwfin
  have hpmag : magUnits (fmag p) ≤ 2 ^ 149 :=
    magUnits_one ▸ magUnits_strictMono.monotone ((Nat.mod_le _ _).trans (le_of_lt hp))
  have hle : rneMag (magUnits (fmag p) * magUnits (fmag (i2f w))) (2 ^ 149) ≤ fmag (i2f w) :=
    rneMag_le_of_le_mul (Nat.two_pow_pos 149) hwlt.le (by rw [mul_comm]; exact Nat.mul_le_mul_left _ hpmag)
  have hunits := magUnits_strictMono.monotone hle
  rw [fmul_of_unsigned hfin hwfin (fsign_of_unitPhase hp) (fsign_i2f w), units_w32 (by omega), isFinite_iff, ← fpack_false,
    fmag_fpack _ (by omega)]
  generalize rneMag (magUnits (fmag p) * magUnits (fmag (i2f w))) (2 ^ 149) = m at *
  refine ⟨by omega, by omega, ?_⟩
  rw [hwmag] at hunits
  exact_mod_cast hunits

/-- Both delays of a tap lie between 0 and the window, so the bound keeps its reads in range (R191, R223). -/
theorem not_processReadsOutOfRange {s : State} (hs : s.engineLegal) (hc : s.cursorLegal) (hp : s.prepared = true)
    (hcap : s.capacityEnough) : ¬ s.processReadsOutOfRange := by
  have hmax : s.cap.toNat ≤ 192000 := hc.1
  have hw : s.winSamp.toNat ≤ 2 ^ 24 := by unfold State.capacityEnough at hcap; omega
  rintro ⟨ch, hch, v, hv, n, hn, hout⟩
  have hphase := phaseAt_unitPhase hs hp (voice_lt_four hv) (channel_lt_eight hch) n
  have hread : ∀ p, unitPhase p → s.tapsInRange ((n : Int) - s.winSamp.toNat) (fmul p (i2f s.winSamp.toNat)) := fun p hp => by
    obtain ⟨hfin, h0, hle⟩ := delay_bounds hp hw
    exact (capacityBoundExact s (by omega) hw).2 hcap n _ hn hfin h0 hle
  exact hout.elim (fun h => h (hread _ hphase)) fun h => h (hread _ (phaseB_unitPhase hphase))

/-- Settles O37: with no read out of range nothing but DONE and CMDDONE is recorded. -/
theorem readsStayInRange : Obligations.ReadsStayInRange := by
  intro s t hs hc hp hcap ht
  obtain ⟨u, w, -, -, hproc, rfl⟩ := exec_process_processed hp ht
  exact hproc.completed_quiet (not_processReadsOutOfRange hs hc hp hcap)

/-! ## Silence (R224) -/

theorem fmul_silent {e : Word} (he : isFinite e = true) (hs : fsign e = false) : fmul 0#32 e = 0#32 ∧ fmul e 0#32 = 0#32 := by
  have hzero : rneMag 0 (2 ^ 149) = 0 := by decide +kernel
  have hmag : magUnits (fmag 0#32) = 0 := rfl
  rw [fmul_of_unsigned (by decide) he (by decide) hs, fmul_of_unsigned he (by decide) hs (by decide), hmag, Nat.zero_mul,
    Nat.mul_zero, hzero]
  exact ⟨rfl, rfl⟩

theorem fadd_silent : fadd 0#32 0#32 = 0#32 ∧ fsub 0#32 0#32 = 0#32 := by decide +kernel

/-- SinPi of a phase is not signed (R125). -/
theorem sinPi_unsigned (f : FnChoice) {p : Word} (hp : unitPhase p) :
    isFinite (sinPi f p) = true ∧ fsign (sinPi f p) = false := by
  by_cases h0 : p = 0#32
  · subst h0
    exact ⟨rfl, rfl⟩
  · obtain ⟨m, -, hm, he⟩ := sinPi_bounds f hp h0
    rw [he, isFinite_iff, ← fpack_false, fmag_fpack _ (by omega), fsign_fpack _ (by omega)]
    exact ⟨by omega, rfl⟩

section

variable {s : State} {ch : Nat} (hcap : s.cap ≠ 0#32) (hring : ∀ i, i < s.cap.toNat → (s.ringMem ch).read i = some 0#32)

include hcap hring

theorem readAt_silent (n : Int) (d : Word) : s.readAt ch n d = 0#32 := by
  have haged : ∀ a, s.agedSample ch a = 0#32 := fun a => by rw [agedSample_eq, hring _ (State.ageCell_lt hcap a)]; rfl
  obtain ⟨-, hphase⟩ := splitFrac_exact d
  have hfrac := fmul_silent (unitPhase_units hphase).1 (fsign_of_unitPhase hphase)
  unfold State.readAt
  simp only [haged, fadd_silent.1, fadd_silent.2, hfrac.2, ite_self]

/-- Over a silent channel of the ring every sample is silent. -/
theorem mixAt_silent (hs : s.engineLegal) (hp : s.prepared = true) (hch : ch < 8) (n : Nat) {k : Nat}
    (hk : k ≤ s.params.nvoice) : s.mixAt ch n k = 0#32 := by
  induction k with
  | zero => rfl
  | succ k ih =>
    have hphase := phaseAt_unitPhase hs hp (voice_lt_four hk) hch n
    obtain ⟨hA, hA'⟩ := sinPi_unsigned s.params.sinFn hphase
    obtain ⟨hB, hB'⟩ := sinPi_unsigned s.params.sinFn (phaseB_unitPhase hphase)
    have htap : s.tapSum k ch n = 0#32 := by
      simp only [State.tapSum, readAt_silent hcap hring]
      rw [(fmul_silent hA hA').1]
      exact (congrArg (fadd 0#32) (fmul_silent hB hB').1).trans fadd_silent.1
    rw [State.mixAt, ih (Nat.le_of_succ_le hk), htap, fadd_silent.1]

end

/-- Settles O39: the block leaves the ring silent, over which every sample is. -/
theorem silenceInSilenceOut : Obligations.SilenceInSilenceOut := by
  intro s hm hs hp hcap hblock hring
  obtain ⟨t, ht, -⟩ := processCompletes s hm hp hcap (fun ch hch n hn => by rw [hblock ch n hch hn]; rfl)
    (fun ch hch i hi => by rw [hring ch i hch hi]; rfl)
  obtain ⟨u, w, hu, -, hproc, rfl⟩ := exec_process_processed hp ht
  have hsilent : ∀ ch i, ch < s.params.nch → i < s.cap.toNat → (u.ringMem ch).read i = some 0#32 := fun ch i hch hi =>
    (ringWriteBlock_blockStored hm hu hch).of_forall (P := (· = some 0#32)) (fun j => hblock ch j hch) (hring ch i hch hi)
  refine ⟨w.complete, ht, fun ch n hch hn => ?_, fun ch i hch hi => ?_⟩
  · obtain ⟨R, W, rfl⟩ : ∃ R W, u = { s with ring := R, wptr := W } := ⟨_, _, State.ringWriteBlock_frame hu⟩
    have hmix := mixAt_silent (s := { s with ring := R, wptr := W }) hcap (fun i => hsilent ch i hch) hs hp
      (channel_lt_eight hch) n le_rfl
    refine (hproc.io hm ch n).trans ?_
    rw [if_pos ⟨hch, hn⟩, hmix, (fmul_silent (by decide) (by decide)).1]
  · refine Eq.trans ?_ (hsilent ch i hch hi)
    exact congrArg (fun r : Vector Memory 8 => (r.getD ch Memory.undefined).read i) hproc.ring

/-! ## Channels (R226) -/

/-- `s` and `s'` agree on what the reads and the phases of channel `ch` depend on. -/
structure SameChannel (ch : Nat) (s s' : State) : Prop where
  params : s.params = s'.params
  winSamp : s.winSamp = s'.winSamp
  blksz : s.blksz = s'.blksz
  wptr : s.wptr = s'.wptr
  cap : s.cap = s'.cap
  sr : s.sr = s'.sr
  cap_ne : s.cap ≠ 0#32
  ring : ∀ i, i < s.cap.toNat → (s.ringMem ch).read i = (s'.ringMem ch).read i
  osc : ∀ v, v < s.params.nvoice → (s.osc v ch).phase = (s'.osc v ch).phase ∧ (s.osc v ch).freq = (s'.osc v ch).freq

namespace SameChannel

variable {s s' : State} {ch : Nat} (h : SameChannel ch s s')

include h

theorem phaseAt {v : Nat} (hv : v < s.params.nvoice) (n : Nat) : s.phaseAt v ch n = s'.phaseAt v ch n := by
  obtain ⟨hphase, hfreq⟩ := h.osc v hv
  rw [State.phaseAt, State.phaseAt, hphase, hfreq, h.sr]

theorem readAt (n : Int) (d : Word) : s.readAt ch n d = s'.readAt ch n d := by
  have haged : ∀ a, s.agedSample ch a = s'.agedSample ch a := fun a => by
    have hcell : s.ageCell a = s'.ageCell a := by rw [State.ageCell, State.ageCell, h.wptr, h.cap]
    rw [agedSample_eq, agedSample_eq, h.ring _ (State.ageCell_lt h.cap_ne a), hcell]
  have hage : s.tapAge n d = s'.tapAge n d := by rw [State.tapAge, State.tapAge, h.blksz]
  have hrange : s.tapsInRange n d ↔ s'.tapsInRange n d := by simp only [State.tapsInRange, hage, h.cap]
  refine if_congr hrange ?_ rfl
  simp only [haged, hage]

theorem tapSum {v : Nat} (hv : v < s.params.nvoice) (n : Nat) : s.tapSum v ch n = s'.tapSum v ch n := by
  simp only [State.tapSum, State.delayA, State.delayB, h.phaseAt hv, h.readAt, h.winSamp, h.params]

theorem mixAt (n : Nat) {k : Nat} (hk : k ≤ s.params.nvoice) : s.mixAt ch n k = s'.mixAt ch n k := by
  induction k with
  | zero => rfl
  | succ k ih => rw [State.mixAt, State.mixAt, ih (Nat.le_of_succ_le hk), h.tapSum hk]

/-- The block of the channel written to both leaves them so. -/
theorem ringWriteBlock (hm : s.memoryLegal) (hm' : s'.memoryLegal) (hch : ch < s.params.nch)
    (hio : ∀ n, n < s.blksz.toNat → (s.ioMem ch).read n = (s'.ioMem ch).read n) {u u' : State} (hu : s.ringWriteBlock = .ok u)
    (hu' : s'.ringWriteBlock = .ok u') : SameChannel ch u u' := by
  have hst := ringWriteBlock_blockStored hm hu hch
  have hst' := ringWriteBlock_blockStored hm' hu' (h.params ▸ hch)
  have hcell : s'.blockCell = s.blockCell := by funext j; rw [State.blockCell, State.blockCell, h.wptr, h.cap]
  rw [hcell, ← h.blksz] at hst'
  obtain ⟨R, rfl⟩ : ∃ R, u = { s with ring := R, wptr := w32 ((s.wptr.toNat + s.blksz.toNat) % s.cap.toNat) } :=
    ⟨_, State.ringWriteBlock_frame hu⟩
  obtain ⟨R', rfl⟩ : ∃ R, u' = { s' with ring := R, wptr := w32 ((s'.wptr.toNat + s'.blksz.toNat) % s'.cap.toNat) } :=
    ⟨_, State.ringWriteBlock_frame hu'⟩
  exact { h with
    wptr := by simp only [h.wptr, h.blksz, h.cap]
    ring := fun i hi => hst.congr hst' hio (h.ring i hi) }

end SameChannel

/-- Settles O40: the block is stored alike in both, so their mixed samples agree. -/
theorem channelsAreIndependent : Obligations.ChannelsAreIndependent := by
  intro s s' t t' ch hm hm' hparams hch hwin hblk hwptr hcap hsr hne hio hring hosc hp hp' ht ht'
  have hsame : SameChannel ch s s' := ⟨hparams, hwin, hblk, hwptr, hcap, hsr, hne, hring, hosc⟩
  obtain ⟨u, w, hu, -, hproc, rfl⟩ := exec_process_processed hp ht
  obtain ⟨u', w', hu', -, hproc', rfl⟩ := exec_process_processed hp' ht'
  have hframe := State.ringWriteBlock_frame hu
  have hsame' := hsame.ringWriteBlock hm hm' hch hio hu hu'
  have hch' : ch < s'.params.nch := hparams ▸ hch
  refine ⟨fun n hn => ?_, fun i hi => ?_, fun v hv => ?_⟩
  · refine (hproc.io hm ch n).trans (Eq.trans ?_ (hproc'.io hm' ch n).symm)
    have hmix : u.mixAt ch n s.params.nvoice = u'.mixAt ch n s.params.nvoice :=
      hsame'.mixAt n (congrArg (·.params.nvoice) hframe).ge
    rw [if_pos ⟨hch, hn⟩, if_pos ⟨hch', hblk ▸ hn⟩, hmix, hparams]
  · have hr : (u.ringMem ch).read i = (u'.ringMem ch).read i := hsame'.ring i ((congrArg State.cap hframe :) ▸ hi)
    rw [State.ringMem, State.ringMem, ← hproc.ring, ← hproc'.ring] at hr
    exact hr
  · refine (congrArg Osc.phase (hproc.osc v ch hv (channel_lt_eight hch))).trans
      (Eq.trans ?_ (congrArg Osc.phase (hproc'.osc v ch (hparams ▸ hv) (channel_lt_eight hch))).symm)
    rw [if_pos hch, if_pos hch', ← hblk]
    exact hsame.phaseAt hv _

end Sys2Proof.Machine
end

section
/-! PROOF. The checks of a command's state and operands (R251 (4), (5)): each failing one aborts with the command's own fields. -/

namespace Sys2Proof.Machine

/-! ## What an abort leaves (R25, R253) -/

/-- An error raised in a command, written out: ERRINFO's OP, V and CH are the command's opcode and indices, 0 for an index it does
not use. -/
theorem raise_eq_afterError (i : Instr) (c : ErrCode) {bit : Nat} (hbit : errBit c = bitMask bit) (s : State) :
    raise i c s = .next (s.afterError (errNumber c) bit i.opcode (i.voice?.getD 0) (i.channel?.getD 0)) := by
  obtain ⟨-, hv, hch, hs⟩ := encodedFields i
  rw [raise, abort_sourceOf c hbit, ← hv, ← hch, ← (select_row hs).1]
  rfl

theorem raise_notReady (i : Instr) (s : State) :
    raise i .notReady s = .next (s.afterError 4 9 i.opcode (i.voice?.getD 0) (i.channel?.getD 0)) :=
  raise_eq_afterError i .notReady rfl s

theorem raise_badArgument (i : Instr) (s : State) :
    raise i .badArgument s = .next (s.afterError 5 10 i.opcode (i.voice?.getD 0) (i.channel?.getD 0)) :=
  raise_eq_afterError i .badArgument rfl s

/-! ## The checks -/

theorem wellFormed_setTranspo_iff {p : Params} {v : Fin 16} : (Instr.setTranspo v).wellFormed p = true ↔ v.val < p.nvoice := by
  simp [Instr.wellFormed, Instr.voiceLegal, Instr.channelLegal, Instr.voice?, Instr.channel?]

theorem wellFormed_rbRead_iff {p : Params} {ch : Fin 16} : (Instr.rbRead ch).wellFormed p = true ↔ ch.val < p.nch := by
  simp [Instr.wellFormed, Instr.voiceLegal, Instr.channelLegal, Instr.voice?, Instr.channel?]

/-- A CVT_S2N whose operands or product fail one of R132's checks only aborts. -/
theorem exec_cvtS2n_of_illegal {s : State}
    (h : isFinite s.operand0 = false ∨ units s.operand0 < 0 ∨ s.operand1 = 0#32 ∨ 2 ^ 24 < s.operand1.toNat ∨
      fmul s.operand0 (i2f s.operand1.toNat) = 0x7F800000#32 ∨
      2 ^ 32 - 1 < roundAway (fmul s.operand0 (i2f s.operand1.toNat))) :
    exec .cvtS2n s = raise .cvtS2n .badArgument s := by
  by_cases hsec : (!isFinite s.operand0 || decide (units s.operand0 < 0)) = true
  · exact if_pos hsec
  refine (if_neg hsec).trans ?_
  by_cases hrate : s.operand1.toNat = 0 ∨ 2 ^ 24 < s.operand1.toNat
  · exact if_pos hrate
  refine (if_neg hrate).trans ?_
  by_cases hinf : isInf (fmul s.operand0 (i2f s.operand1.toNat)) = true
  · exact if_pos hinf
  refine (if_neg hinf).trans (if_pos ?_)
  rcases h with h | h | h | h | h | h
  · simp [h] at hsec
  · simp [h] at hsec
  · exact absurd (.inl (congrArg BitVec.toNat h)) hrate
  · exact absurd (.inr h) hrate
  · exact absurd (by rw [h]; rfl) hinf
  · simp only [secondsToSamples, u32]
    omega

/-- Settles O8: each command raises the error at the check that fails, its indices being in range. -/
theorem stateAndOperandChecksAbort : Obligations.StateAndOperandChecksAbort := by
  intro s
  refine ⟨fun hp => ?_, fun hcap => ⟨?_, ?_⟩, fun ch hch hcap => ?_, fun h => ?_, fun h => ?_, fun hnan => ?_, fun h => ?_,
    fun v hv => ⟨fun hnan => ?_, fun ch hch => ⟨fun hp => ?_, fun hfin => ?_, fun hop => ?_, fun hop => ?_⟩⟩⟩
  · exact (if_neg (by simp [hp])).trans (raise_notReady .process s)
  · exact (if_pos (by rw [hcap]; rfl)).trans (raise_notReady .rbInit s)
  · exact (if_pos (by rw [hcap]; rfl)).trans (raise_notReady .rbWrite s)
  · exact (if_pos (wellFormed_rbRead_iff.2 hch)).trans ((if_pos (by rw [hcap]; rfl)).trans (raise_notReady (.rbRead ch) s))
  · exact (exec_prepare_of_illegal (by simp only [Config.srMin, Config.srMax, Config.blockMax]; omega)).trans
      (raise_badArgument .prepare s)
  · exact (exec_rbConfigure_of_illegal (by simp only [Config.capMax, Config.blockMax]; omega)).trans
      (raise_badArgument .rbConfigure s)
  · exact (if_pos hnan).trans (raise_badArgument .setWindow s)
  · exact (exec_cvtS2n_of_illegal h).trans (raise_badArgument .cvtS2n s)
  · exact (if_pos (wellFormed_setTranspo_iff.2 hv)).trans ((if_pos hnan).trans (raise_badArgument (.setTranspo v) s))
  · exact (if_pos (wellFormed_of_oscillator rfl rfl ⟨hv, hch⟩)).trans
      ((if_neg (by simp [hp])).trans (raise_notReady (.oscNext v ch) s))
  · exact (if_pos (wellFormed_of_oscillator rfl rfl ⟨hv, hch⟩)).trans
      ((if_neg (by simp [hfin])).trans (raise_badArgument (.oscSetFreq v ch) s))
  · exact (if_pos (wellFormed_of_oscillator rfl rfl ⟨hv, hch⟩)).trans
      ((if_neg fun h => hop (BitVec.eq_of_toNat_eq h)).trans (raise_badArgument (.oscSetType v ch) s))
  · exact (if_pos (wellFormed_of_oscillator rfl rfl ⟨hv, hch⟩)).trans
      ((if_neg (Nat.not_le.2 hop)).trans (raise_badArgument (.oscSetDebug v ch) s))

end Sys2Proof.Machine
end

section
/-! PROOF. Which steps stop (R256): a command goes on, but for the three that read cells, and those stop
only at an undefined one. -/

namespace Sys2Proof.Machine

/-! ## Where a computation stops -/

theorem Runs.names_of_error {α : Type} {names : Fault → Prop} {bad : Prop} {post : α → Prop} {x : Except Fault α} {f : Fault}
    (h : Runs names bad post x) (hx : x = .error f) : names f := by
  subst hx
  exact h.2

theorem finishE_eq_fault {x : Except Fault State} {f : Fault} : finishE x = .fault f ↔ x = .error f := by
  cases x <;> simp [finishE, finish]

theorem finishE_ne_refused (x : Except Fault State) (r : Refusal) : finishE x ≠ .refused r := by
  cases x <;> simp [finishE, finish]

/-! ## Without a capacity nothing is read (R188) -/

theorem readInRange_of_cap_zero {s : State} (hcap : s.cap = 0#32) (n : Int) (d : Word) : s.readInRange n d = false := by
  refine Bool.eq_false_iff.2 fun h => ?_
  obtain ⟨-, -, hnewer, holder⟩ := State.readInRange_iff.1 h
  have hcap0 : s.cap.toNat = 0 := by rw [hcap]; rfl
  split_ifs at holder <;> omega

theorem ringReadInterp_of_cap_zero {s : State} (hcap : s.cap = 0#32) (src : ErrSource) (ch : Nat) (n : Int) (d : Word) :
    s.ringReadInterp src ch n d = .ok (s.recordError .readRange src, 0#32) := by
  rw [State.ringReadInterp, readInRange_of_cap_zero hcap]
  rfl

theorem voiceTap_of_cap_zero {s : State} (hcap : s.cap = 0#32) (src : ErrSource) (v ch n : Nat) :
    ∃ r, s.voiceTap src v ch n = .ok r ∧ r.1.cap = 0#32 := by
  have hadv : (s.oscAdvance v ch).cap = 0#32 := hcap
  have hrec : ((s.oscAdvance v ch).recordError .readRange src).cap = 0#32 := hcap
  rw [State.voiceTap, ringReadInterp_of_cap_zero hadv, andThen_ok, ringReadInterp_of_cap_zero hrec, andThen_ok]
  exact ⟨_, rfl, hcap⟩

theorem outSample_of_cap_zero {s : State} (hcap : s.cap = 0#32) (src : ErrSource) (ch n : Nat) :
    ∃ r, s.outSample src ch n = .ok r ∧ r.1.cap = 0#32 :=
  loopE_succeeds (fun _ (x : State × Word) => x.1.cap = 0#32) hcap fun v _ _ hx =>
    let ⟨r, hr, hrcap⟩ := voiceTap_of_cap_zero hx src v ch n
    ⟨_, andThen_eq_ok.2 ⟨r, hr, rfl⟩, hrcap⟩

theorem outChannel_of_cap_zero {s : State} (hcap : s.cap = 0#32) (src : ErrSource) (ch : Nat) :
    ∃ r, s.outChannel src ch = .ok r ∧ r.1.cap = 0#32 :=
  loopE_succeeds (fun _ (x : State × List Word) => x.1.cap = 0#32) hcap fun n _ _ hx =>
    let ⟨r, hr, hrcap⟩ := outSample_of_cap_zero hx src ch n
    ⟨_, andThen_eq_ok.2 ⟨r, hr, rfl⟩, hrcap⟩

/-- The samples of a block are computed all the same, every read of theirs out of range. -/
theorem outBlock_of_cap_zero {s : State} (hcap : s.cap = 0#32) (src : ErrSource) :
    ∃ r, s.outBlock src = .ok r ∧ r.1.cap = 0#32 :=
  loopE_succeeds (fun _ (x : State × List (List Word)) => x.1.cap = 0#32) hcap fun ch _ _ hx =>
    let ⟨r, hr, hrcap⟩ := outChannel_of_cap_zero hx src ch
    ⟨_, andThen_eq_ok.2 ⟨r, hr, rfl⟩, hrcap⟩

/-- The samples of a block stop only at an undefined ring cell, whatever the capacity. -/
theorem outBlock_error {src : ErrSource} {s : State} {f : Fault} (h : s.outBlock src = .error f) : s.namesRingCell f := by
  by_cases hcap : s.cap = 0#32
  · obtain ⟨r, hr, -⟩ := outBlock_of_cap_zero hcap src
    rw [hr] at h
    cases h
  · exact (outBlock_runs src hcap).names_of_error h

/-- A PROCESS stops at an undefined cell of its block, or, the block written, at an undefined ring cell. -/
theorem processBlock_error {src : ErrSource} {s : State} {f : Fault} (h : s.processBlock src = .error f) :
    s.namesIoCell f ∨ ∃ u, s.ringWriteBlock = .ok u ∧ u.namesRingCell f := by
  rcases andThen_eq_error.1 h with h | ⟨u, hu, h⟩
  · exact .inl (s.ringWriteBlock_runs.names_of_error h)
  · rcases andThen_eq_error.1 h with h | ⟨r, -, h⟩
    · exact .inr ⟨u, hu, outBlock_error h⟩
    · cases h

/-- Writing a block leaves no cell undefined that was defined (R61, R183). -/
theorem read_eq_none_of_ringWriteBlock {s u : State} (hm : s.memoryLegal) (hu : s.ringWriteBlock = .ok u) {ch i : Nat}
    (hch : ch < s.params.nch) (hnone : (u.ringMem ch).read i = none) : (s.ringMem ch).read i = none := by
  by_contra hdef
  have hblock : s.blockDefined := by
    by_contra hb
    obtain ⟨f, hf, -⟩ := s.ringWriteBlock_runs.stops (State.not_blockDefined_iff.1 hb)
    rw [hf] at hu
    cases hu
  exact (ringWriteBlock_blockStored hm hu hch).of_forall (P := (· ≠ none))
    (fun j hj => Option.isSome_iff_ne_none.1 (hblock ch hch j hj)) hdef hnone

/-! ## Which commands go on -/

/-- The machine goes on. -/
abbrev GoesOn (o : Host.Outcome State Fault Refusal) : Prop := ∃ t, o = .next t

theorem goesOn_finish (s : State) : GoesOn (finish s) := ⟨_, rfl⟩

/-- A check that raises an error where it holds, before what goes on. -/
theorem goesOn_raise_else {c : Prop} [Decidable c] {i : Instr} {e : ErrCode} {s : State} {o : Host.Outcome State Fault Refusal}
    (h : GoesOn o) : GoesOn (if c then raise i e s else o) := by
  split_ifs
  · exact ⟨_, rfl⟩
  · exact h

/-- A check that raises an error where it does not hold. -/
theorem goesOn_else_raise {c : Prop} [Decidable c] {i : Instr} {e : ErrCode} {s : State} {o : Host.Outcome State Fault Refusal}
    (h : GoesOn o) : GoesOn (if c then o else raise i e s) := by
  split_ifs
  · exact h
  · exact ⟨_, rfl⟩

/-- A command goes on, or it is one of the three that read cells, past its checks. -/
theorem exec_goesOn_or_reads (i : Instr) (s : State) :
    GoesOn (exec i s) ∨ (i = .process ∧ exec i s = finishE (s.processBlock (sourceOf (encode .process)))) ∨
      (i = .rbWrite ∧ exec i s = finishE s.ringWriteBlock) ∨
      ∃ ch : Fin 16, i = .rbRead ch ∧ ch.val < s.params.nch ∧ s.cap ≠ 0#32 := by
  cases i with
  | nop => exact .inl (goesOn_finish s)
  | prepare => exact .inl (goesOn_raise_else (goesOn_raise_else (goesOn_raise_else (goesOn_finish _))))
  | setTranspo v => exact .inl (goesOn_else_raise (goesOn_raise_else (goesOn_finish _)))
  | setWindow => exact .inl (goesOn_raise_else (goesOn_finish _))
  | process =>
    cases hp : s.prepared with
    | false => exact .inl ⟨_, if_neg (by simp [hp])⟩
    | true => exact .inr (.inl ⟨rfl, exec_process hp⟩)
  | oscInit v ch => exact .inl (goesOn_else_raise (goesOn_finish _))
  | oscSetFreq v ch => exact .inl (goesOn_else_raise (goesOn_else_raise (goesOn_finish _)))
  | oscSetType v ch => exact .inl (goesOn_else_raise (goesOn_else_raise (goesOn_finish _)))
  | oscSetDebug v ch => exact .inl (goesOn_else_raise (goesOn_else_raise (goesOn_finish _)))
  | oscNext v ch => exact .inl (goesOn_else_raise (goesOn_else_raise (goesOn_finish _)))
  | rbConfigure => exact .inl (goesOn_raise_else (goesOn_raise_else (goesOn_finish _)))
  | rbInit => exact .inl (goesOn_raise_else (goesOn_finish _))
  | rbWrite =>
    by_cases hcap : s.cap = 0#32
    · exact .inl ⟨_, if_pos (by rw [hcap]; rfl)⟩
    · exact .inr (.inr (.inl ⟨rfl, exec_rbWrite hcap⟩))
  | rbRead ch =>
    by_cases hwf : (Instr.rbRead ch).wellFormed s.params = true
    · by_cases hcap : s.cap = 0#32
      · exact .inl ⟨_, (if_pos hwf).trans (if_pos (by rw [hcap]; rfl))⟩
      · exact .inr (.inr (.inr ⟨ch, rfl, wellFormed_rbRead_iff.1 hwf, hcap⟩))
    · exact .inl ⟨_, exec_of_not_wellFormed hwf⟩
  | cvtS2n => exact .inl (goesOn_raise_else (goesOn_raise_else (goesOn_raise_else (goesOn_raise_else (goesOn_finish _)))))
  | cvtT2f => exact .inl (goesOn_finish _)

theorem exec_ne_refused (i : Instr) (s : State) (r : Refusal) : exec i s ≠ .refused r := by
  rcases exec_goesOn_or_reads i s with ⟨t, h⟩ | ⟨-, h⟩ | ⟨-, h⟩ | ⟨ch, rfl, hch, hcap⟩
  · simp [h]
  · rw [h]; exact finishE_ne_refused _ r
  · rw [h]; exact finishE_ne_refused _ r
  · rw [exec_rbRead hch hcap]; exact finishE_ne_refused _ r

/-- A command that stops has read an undefined cell: PROCESS or RB_WRITE one of its block, RB_READ one of the ring, PROCESS one of
the ring with its block written. -/
theorem exec_fault_cases {i : Instr} {s : State} {f : Fault} (h : exec i s = .fault f) :
    ((i = .process ∨ i = .rbWrite) ∧ s.namesIoCell f) ∨ ((∃ ch, i = .rbRead ch) ∧ s.namesRingCell f) ∨
      i = .process ∧ ∃ u, s.ringWriteBlock = .ok u ∧ u.namesRingCell f := by
  rcases exec_goesOn_or_reads i s with ⟨t, ht⟩ | ⟨hi, hx⟩ | ⟨hi, hx⟩ | ⟨ch, rfl, hch, hcap⟩
  · rw [ht] at h
    cases h
  · rw [hx, finishE_eq_fault] at h
    exact (processBlock_error h).imp (⟨.inl hi, ·⟩) fun hu => .inr ⟨hi, hu⟩
  · rw [hx, finishE_eq_fault] at h
    exact .inl ⟨.inr hi, s.ringWriteBlock_runs.names_of_error h⟩
  · rw [exec_rbRead hch hcap, finishE_eq_fault] at h
    rcases andThen_eq_error.1 h with h | ⟨r, -, h⟩
    · exact .inr (.inl ⟨⟨ch, rfl⟩, (State.ringReadInterp_runs hch hcap _ _ _).names_of_error h⟩)
    · cases h

/-! ## Which steps go on -/

/-- A move of the executor goes on, or it executes the command in flight. -/
theorem executorMove_goesOn_or_executes (s : State) :
    GoesOn (executorMove s) ∨ ∃ i, s.inflightCommand = some i ∧ executorMove s = exec i s := by
  cases hr : s.rst with
  | true => exact .inl ⟨s, if_pos hr⟩
  | false =>
    cases he : s.inflight with
    | none => exact .inl ⟨_, executorMove_of_empty_slot hr he⟩
    | some e =>
      cases hd : decode e.word with
      | ok i =>
        have hi : s.inflightCommand = some i := by rw [State.inflightCommand, he]; exact select_of_decode hd
        exact .inr ⟨i, hi, executorMove_of_decoded hr he hd⟩
      | error d => exact .inl ⟨_, by rw [executorMove_of_inflight hr he, completeEntry, hd]⟩

/-- A step goes on, or it executes the command in flight. -/
theorem step_goesOn_or_executes (s : State) :
    GoesOn (step s) ∨ ∃ i rest, s.inflightCommand = some i ∧ step s = exec i { s with inputs := rest } := by
  have hturn : ∀ rest, s.executorTurn rest →
      GoesOn (step s) ∨ ∃ i rest, s.inflightCommand = some i ∧ step s = exec i { s with inputs := rest } := fun rest h => by
    rw [step_of_executorTurn h]
    exact (executorMove_goesOn_or_executes { s with inputs := rest }).imp_right fun ⟨i, hi, hx⟩ => ⟨i, rest, hi, hx⟩
  cases hin : s.inputs with
  | nil => exact hturn [] (.inl ⟨hin, rfl⟩)
  | cons e rest =>
    cases e with
    | turn => exact hturn rest (.inr hin)
    | access a => exact .inl ⟨_, step_of_cons hin⟩
    | drive level => exact .inl ⟨_, step_of_cons hin⟩

/-- A step that stops executes the command in flight, and that stops. -/
theorem step_fault_cases {s : State} {f : Fault} (h : step s = .fault f) :
    ∃ i rest, s.inflightCommand = some i ∧ exec i { s with inputs := rest } = .fault f := by
  rcases step_goesOn_or_executes s with ⟨t, ht⟩ | ⟨i, rest, hi, hx⟩
  · rw [ht] at h
    cases h
  · exact ⟨i, rest, hi, hx ▸ h⟩

/-- Settles O10: a step that does not go on executes a command that reads an undefined cell; a ring cell undefined after PROCESS has
written its block was undefined before. -/
theorem errorsNeverStopTheBlock : Obligations.ErrorsNeverStopTheBlock := by
  refine ⟨fun s r h => ?_, fun s ch n h => ?_, fun s ch i hm h => ?_⟩
  · rcases step_goesOn_or_executes s with ⟨t, ht⟩ | ⟨i, rest, -, hx⟩
    · rw [ht] at h
      cases h
    · exact exec_ne_refused i _ r (hx ▸ h)
  · obtain ⟨c, rest, hc, hx⟩ := step_fault_cases h
    rw [hc]
    rcases exec_fault_cases hx with ⟨hi, _, _, -, -, hnone, hf⟩ | ⟨-, _, _, -, -, -, hf⟩ | ⟨-, _, -, _, _, -, -, -, hf⟩
    · cases hf
      exact ⟨hi.imp (congrArg some) (congrArg some), hnone⟩
    · cases hf
    · cases hf
  · obtain ⟨c, rest, hc, hx⟩ := step_fault_cases h
    rw [hc]
    rcases exec_fault_cases hx with ⟨-, _, _, -, -, -, hf⟩ | ⟨⟨k, hi⟩, _, _, -, -, hnone, hf⟩ |
      ⟨hi, u, hu, _, _, hch, -, hnone, hf⟩
    · cases hf
    · cases hf
      exact ⟨.inr ⟨k, congrArg some hi⟩, hnone⟩
    · cases hf
      have hparams : u.params = s.params := (congrArg State.params (State.ringWriteBlock_frame hu) :)
      exact ⟨.inl (congrArg some hi),
        read_eq_none_of_ringWriteBlock (s := { s with inputs := rest }) hm hu (hparams ▸ hch) hnone⟩

end Sys2Proof.Machine
end

section
/-! PROOF. Reset and the reset input (spec/70_reset_and_hazards.md section 1): the reset state is idle and meets every invariant, and
RST brings the block to it and holds it there. -/

namespace Sys2Proof.Machine

/-! ## The reset state (R280) -/

theorem resetOf_ringMem (p : Params) (ch : Nat) : (State.resetOf p).ringMem ch = Memory.undefined := by
  by_cases h : ch < 8 <;> simp [State.ringMem, State.resetOf, Vector.getD, h]

theorem resetOf_ioMem (p : Params) (ch : Nat) : (State.resetOf p).ioMem ch = Memory.undefined := by
  by_cases h : ch < 8 <;> simp [State.ioMem, State.resetOf, Vector.getD, h]

/-- An empty FIFO is not full: QDEPTH is at least 1 (R5). -/
theorem resetOf_qfull (p : Params) : (State.resetOf p).qfull = false :=
  beq_false_of_ne (Nat.ne_of_lt p.qdepth_range.1)

theorem resetOf_statusWord (p : Params) : (State.resetOf p).statusWord = 0#32 := by
  rw [State.statusWord, resetOf_qfull]
  simp [State.busy, State.pending, State.resetOf]

/-- With the slot and the FIFO empty and no event to come, the executor idles (R270). -/
theorem step_resetOf (p : Params) : step (State.resetOf p) = .next (State.resetOf p) := by
  rw [step_of_nil rfl, executorMove_of_empty_slot rfl rfl]
  rfl

/-- Settles O1: the arrays read alike at every index, STATUS is 0 on every instance, and the executor idles; the other values are
those the reset state is written with. -/
theorem resetLeavesListedValues : Obligations.ResetLeavesListedValues := by
  intro p
  refine ⟨⟨resetOf_statusWord p, rfl, rfl, rfl⟩, ⟨rfl, rfl, rfl, rfl⟩, ⟨rfl, rfl, rfl, rfl⟩, ⟨rfl, rfl⟩, ⟨rfl, rfl, rfl, rfl⟩,
    ⟨rfl, rfl, rfl⟩, fun v _ => resetOf_voice p v, fun v ch hv hch => ?_, fun ch i _ => ?_, ?_, step_resetOf p⟩
  · exact resetOf_osc p (hv.trans_le p.nvoice_range.2) (hch.trans_le p.nch_range.2)
  · rw [resetOf_ringMem, resetOf_ioMem]
    exact ⟨Memory.read_undefined i, Memory.read_undefined i⟩
  · simp [State.irq, resetOf_statusWord]

/-! ## The invariants at reset -/

theorem resetOf_memoryLegal (p : Params) : (State.resetOf p).memoryLegal := undefined_memoryLegal rfl rfl

theorem resetOf_controlLegal (p : Params) : (State.resetOf p).controlLegal := by
  simp [State.controlLegal, State.resetOf]

theorem resetOf_cursorLegal (p : Params) : (State.resetOf p).cursorLegal := by
  simp [State.cursorLegal, State.resetOf]

/-- The reset state is not PREPARED, so nothing is claimed of WIN_SAMP (R31). -/
theorem resetOf_windowDerived (p : Params) : (State.resetOf p).windowDerived := fun hp => absurd hp Bool.false_ne_true

/-- Settles O55: each invariant is met at reset; the derived frequencies are Exp2's value at 0, the same on every instance. -/
theorem resetMeetsInvariants : Obligations.ResetMeetsInvariants := fun p =>
  ⟨resetOf_memoryLegal p, resetOf_controlLegal p, resetOf_cursorLegal p, resetOf_engineLegal p, resetOf_freqDerived p,
    resetOf_windowDerived p⟩

/-! ## The reset input (R281, R282) -/

theorem hostAccess_of_rst {s : State} (hr : s.rst = true) (a : Access) : hostAccess a s = s.respond 0#32 false := if_pos hr

theorem executorMove_of_rst {s : State} (hr : s.rst = true) : executorMove s = .next s := if_pos hr

/-- Settles O2: a level on RST is driven whatever the state; while RST is asserted an access is only answered and the executor stays. -/
theorem resetInputAbandonsAndHolds : Obligations.ResetInputAbandonsAndHolds := by
  intro s rest
  refine ⟨fun hin => ?_, fun hr a hin => ?_, fun hr hin => ?_, fun hin => ?_⟩
  · rw [step_of_cons hin, takeEvent_drive]
    rfl
  · rw [step_of_cons hin, takeEvent_access, hostAccess_of_rst (s := { s with inputs := rest }) hr]
    rfl
  · rw [step_of_cons hin, takeEvent_turn, executorMove_of_rst (s := { s with inputs := rest }) hr]
  · rw [step_of_cons hin, takeEvent_drive]
    rfl

end Sys2Proof.Machine
end
